-- ==== Sys2Proof/Word.lean ====
section
/-! DEFINITION. The widths the spec fixes (00 R9, D30) and the two one-bit names of a header (30 R88). -/

namespace Sys2Proof

/-- A descriptor word, a run count, a pixel address, a status register: 32 bits (00 R9). -/
abbrev Word := BitVec 32

/-- A 16-bit value: a pixel, a coordinate, a word unit, a line-selector token (00 R9). -/
abbrev Half := BitVec 16

/-- A byte unit, a controller command byte: 8 bits (00 R9). -/
abbrev Byte := BitVec 8

/-- Line selection, the header field SEL: CMD for 1, DATA for 0 (30 R88). -/
inductive LineSel where
  | cmd
  | data
deriving DecidableEq, Repr

/-- Framing, the header field FRM: CONTINUE for 0, LAST for 1 (30 R88, 40 R101). -/
inductive Framing where
  | cont
  | last
deriving DecidableEq, Repr

end Sys2Proof
end

