-- ==== Sys2Proof/Config.lean ====
section
/-! DEFINITION. The parameters a model of the block takes (00 R7), the moves of its agents (00 R12), and the free values. -/

namespace Sys2Proof

/-- A bus configuration value: clock rate, bit order, mode. The spec makes it an opaque type with equality (00 R7, D16);
here it is a numbered name, and no rule of the model looks at the number (log 3). -/
structure BusCfg where
  tag : Nat
deriving DecidableEq, Repr, Inhabited

/-- Which frame completions set the completion flag (40 R113, D5). -/
inductive TcfMode where
  | tagged
  | eachFrame
deriving DecidableEq, Repr

/-- The implementation parameters of 00 R7. A state carries one value of this type, which no step writes (log 1), so a
statement about every state is a statement about every choice of parameters. -/
structure Params where
  fifoDepth : Nat
  fullThreshold : Nat
  tcfMode : TcfMode
  sentinel : Half
  cmdColset : Byte
  cmdRowset : Byte
  cmdMemwrite : Byte
  dmemWords : Nat
  pmemSize : Nat
  launchDp : Nat
  sessionCfg : BusCfg
  initBusCfg : BusCfg
  ctrlW : Nat
  ctrlH : Nat
deriving DecidableEq, Repr

/-- The values `State.reset` uses: the spec's defaults where 00 R7 gives one, the largest memories it allows, and two
distinct names for the two opaque configurations (PRESUMED and DESIGN CHOICE, log 2). -/
def Params.default : Params where
  fifoDepth := 4
  fullThreshold := 3
  tcfMode := .tagged
  sentinel := 0x0000
  cmdColset := 0x2A
  cmdRowset := 0x2B
  cmdMemwrite := 0x2C
  dmemWords := 2 ^ 32
  pmemSize := 2 ^ 32
  launchDp := 0
  sessionCfg := ⟨1⟩
  initBusCfg := ⟨0⟩
  ctrlW := 240
  ctrlH := 320

namespace Machine

/-- A move of one agent: what a schedule lists (00 R12; log 8). -/
inductive Move where
  /-- the sequencer: DECODE, or EXEC of one micro-operation (30 R84, 40 R100) -/
  | sequencer
  /-- the shift engine: FINISH where the shifter is busy, else START (40 R112, R113) -/
  | engine
  /-- another consumer takes the bus (43 R166) -/
  | otherAcquire
  /-- another consumer gives the bus back; the two values are the draws of 43 R167 -/
  | otherRelease (cfg : BusCfg) (tcf : Bool)
  /-- the host asserts reset, the memories keeping their contents; `other` says that the launch owner is OTHER (70 R230) -/
  | reset (other : Bool)
  /-- the host loads DMEM and PMEM from address 0 and asserts reset (70 R230; log 17) -/
  | launch (other : Bool) (program : List Word) (pixels : List Half)
deriving DecidableEq, Repr, Inhabited

end Machine

/-- Free value: the n-th move of the policy `free`, of whichever agent (00 R12; log 8). No body: nothing can be proved of it, so
no agent is known ever to move again. -/
opaque Config.freeMove : Nat → Machine.Move

/-- Free value: the bus configuration another consumer leaves at the n-th release the eager policy takes (43 R167, U10; log 10).
No body: nothing can be proved of it. -/
opaque Config.drawBusCfg : Nat → BusCfg

/-- Free value: the completion flag another consumer leaves at that release (43 R167, U10; log 10). -/
opaque Config.drawTcf : Nat → Bool

end Sys2Proof
end

