-- ==== Sys2Proof/Syntax.lean ====
section
/-! DEFINITION. The operations of TDS-1, one constructor per row of spec/opcode_table.json, operands in the order of the
assembler syntax (30 R90). Every operand has exactly the width its field has (30 R83, R87). -/

namespace Sys2Proof

/-- A TDS-1 operation (30 R81). -/
inductive Instr where
  /-- SENDB: send one byte (40 R102). -/
  | sendb (sel : LineSel) (frm : Framing) (value : Byte)
  /-- SENDW: send one 16-bit value (40 R103). -/
  | sendw (sel : LineSel) (frm : Framing) (value : Half)
  /-- SETWIN: set the controller's address window (41 R130). -/
  | setwin (x0 y0 x1 y1 : Half)
  /-- FILL: a constant-colour run (42 R140). -/
  | fill (color : Half) (count : Word)
  /-- BLIT: a varying-colour run from PMEM (42 R141). -/
  | blit (base count : Word)
  /-- SESSBEG: open a bus session (43 R160). -/
  | sessbeg
  /-- SESSEND: close the bus session (43 R161). -/
  | sessend
  /-- INITLN: install the line-selector tokens, once (43 R163). -/
  | initln (valid : Bool) (tc td : Half)
  /-- HALT: end the descriptor program (43 R165). -/
  | halt
deriving DecidableEq, Repr

end Sys2Proof
end

