-- ==== Sys2Proof/WellFormed.lean ====
section
/-! DEFINITION. What is well formed before the machine runs: the parameters (00 R7, premise CfgWF of 70 R230) and a
descriptor's words (30 R85, R89, the match and mask pairs of spec/opcode_table.json). A term of `Instr` needs no check: each
operand has its field's width. -/

namespace Sys2Proof

/-- The queue parameters: `0 ≤ T < D ≤ 255`; with it D ≥ 1 (00 R7, 70 R230). -/
def Params.queueWf (p : Params) : Bool :=
  decide (p.fullThreshold < p.fifoDepth) && decide (p.fifoDepth ≤ 255)

/-- The memory sizes and the launch address: `1 ≤ DMEM_WORDS ≤ 2^32`, `PMEM_SIZE ≤ 2^32`, `LAUNCH_DP < DMEM_WORDS`
(00 R7, 70 R230). -/
def Params.memoryWf (p : Params) : Bool :=
  decide (1 ≤ p.dmemWords) && decide (p.dmemWords ≤ 2 ^ 32) && decide (p.pmemSize ≤ 2 ^ 32) &&
    decide (p.launchDp < p.dmemWords)

/-- The controller's frame memory has a column and a row (00 R7). -/
def Params.controllerWf (p : Params) : Bool :=
  decide (1 ≤ p.ctrlW) && decide (1 ≤ p.ctrlH)

/-- The launch premise CfgWF (70 R230). -/
def Params.wf (p : Params) : Bool :=
  p.queueWf && p.memoryWf && p.controllerWf

/-- One row of spec/opcode_table.json. -/
structure OpcodeRow where
  mnemonic : String
  matchBits : Word
  mask : Word
  words : Nat
deriving DecidableEq, Repr

/-- spec/opcode_table.json, row by row. -/
def opcodeTable : List OpcodeRow :=
  [ ⟨"SENDB", 0x00000001, 0xFF00FFCF, 1⟩,
    ⟨"SENDW", 0x00000002, 0x0000FFCF, 1⟩,
    ⟨"SETWIN", 0x00000003, 0xFFFFFFFF, 3⟩,
    ⟨"FILL", 0x00000004, 0x0000FFFF, 2⟩,
    ⟨"BLIT", 0x00000005, 0xFFFFFFFF, 3⟩,
    ⟨"SESSBEG", 0x00000006, 0xFFFFFFFF, 1⟩,
    ⟨"SESSEND", 0x00000007, 0xFFFFFFFF, 1⟩,
    ⟨"INITLN", 0x00000008, 0xFFFFFFEF, 2⟩,
    ⟨"HALT", 0x0000000F, 0xFFFFFFFF, 1⟩ ]

/-- The header word matches the row: its fixed and reserved bits are the row's (30 R85). -/
def OpcodeRow.fits (r : OpcodeRow) (w0 : Word) : Bool :=
  w0 &&& r.mask == r.matchBits

/-- A list of words is exactly one legal descriptor: the header matches a row and the list has the row's length; extra words
are unconstrained (30 R82, R83, R89). -/
def wellFormedDescriptor : List Word → Bool
  | [] => false
  | w0 :: ws => opcodeTable.any fun r => r.fits w0 && decide (ws.length + 1 = r.words)

end Sys2Proof
end

