-- ==== Sys2Proof/Decode.lean ====
section
/-! DEFINITION. Decoding a descriptor's words into an operation, total and rejecting by name (30 R80 to R89), and the encoder
written from the same layouts. -/

namespace Sys2Proof

/-- The operation selector of a header: the nine legal values of OP (30 R81). -/
inductive Op where
  | sendb | sendw | setwin | fill | blit | sessbeg | sessend | initln | halt
deriving DecidableEq, Repr

/-- The OP field, `w0[3:0]` (30 R80). -/
def opField (w0 : Word) : BitVec 4 := w0.extractLsb' 0 4

/-- OP values (30 R81); 0x0 and 0x9 to 0xE select no operation (30 R86). -/
def Op.ofField (c : BitVec 4) : Option Op :=
  match c.toNat with
  | 1 => some .sendb
  | 2 => some .sendw
  | 3 => some .setwin
  | 4 => some .fill
  | 5 => some .blit
  | 6 => some .sessbeg
  | 7 => some .sessend
  | 8 => some .initln
  | 15 => some .halt
  | _ => none

/-- The OP value of an operation (30 R81). -/
def Op.field : Op → BitVec 4
  | .sendb => 0x1
  | .sendw => 0x2
  | .setwin => 0x3
  | .fill => 0x4
  | .blit => 0x5
  | .sessbeg => 0x6
  | .sessend => 0x7
  | .initln => 0x8
  | .halt => 0xF

/-- `LEN(op)`: the length in words, a function of OP alone (30 R82). -/
def Op.words : Op → Nat
  | .sendb | .sendw | .sessbeg | .sessend | .halt => 1
  | .fill | .initln => 2
  | .setwin | .blit => 3

/-- `RMASK(op)`: the reserved bits of the header (30 R85). -/
def Op.reserved : Op → Word
  | .sendb => 0xFF00FFC0
  | .sendw => 0x0000FFC0
  | .setwin => 0xFFFFFFF0
  | .fill => 0x0000FFF0
  | .blit => 0xFFFFFFF0
  | .sessbeg => 0xFFFFFFF0
  | .sessend => 0xFFFFFFF0
  | .initln => 0xFFFFFFE0
  | .halt => 0xFFFFFFF0

/-- The SEL field: `w0[4] = 1` selects the command line (30 R88). -/
def selField (w0 : Word) : LineSel := if w0.getLsbD 4 then .cmd else .data

/-- The FRM field: `w0[5] = 1` selects LAST framing (30 R88). -/
def frmField (w0 : Word) : Framing := if w0.getLsbD 5 then .last else .cont

/-- Bits [15:0] of a word (30 R83). -/
def lowHalf (w : Word) : Half := w.extractLsb' 0 16

/-- Bits [31:16] of a word (30 R80, R83). -/
def highHalf (w : Word) : Half := w.extractLsb' 16 16

/-- Operand assembly: every operand is zero-extended and unscaled (30 R83, R87). -/
def operands (op : Op) (w0 w1 w2 : Word) : Instr :=
  match op with
  | .sendb => .sendb (selField w0) (frmField w0) (w0.extractLsb' 16 8)
  | .sendw => .sendw (selField w0) (frmField w0) (highHalf w0)
  | .setwin => .setwin (lowHalf w1) (lowHalf w2) (highHalf w1) (highHalf w2)
  | .fill => .fill (highHalf w0) w1
  | .blit => .blit w2 w1
  | .sessbeg => .sessbeg
  | .sessend => .sessend
  | .initln => .initln (w0.getLsbD 4) (lowHalf w1) (highHalf w1)
  | .halt => .halt

/-- Why a list of words is no descriptor. The machine maps each to its fault code (60 R201). -/
inductive DecodeError where
  /-- fewer words than the operation needs, or none: FetchRange -/
  | truncated
  /-- OP selects no operation: IllegalOp -/
  | illegalOp
  /-- a reserved header bit is set: ReservedField -/
  | reservedField
deriving DecidableEq, Repr

/-- What decoding gives: an operation with the words after it, or the reason there is none. -/
inductive Decoded where
  | ok (i : Instr) (rest : List Word)
  | error (e : DecodeError)
deriving DecidableEq, Repr

/-- Decode the descriptor at the head of a list of words, with the checks in the order of 30 R84 and 60 R202: no header,
IllegalOp, too few words, ReservedField. -/
def decode : List Word → Decoded
  | [] => .error .truncated
  | w0 :: ws =>
    match Op.ofField (opField w0) with
    | none => .error .illegalOp
    | some op =>
      if ws.length + 1 < op.words then .error .truncated
      else if w0 &&& op.reserved ≠ 0 then .error .reservedField
      else .ok (operands op w0 (ws.getD 0 0) (ws.getD 1 0)) (ws.drop (op.words - 1))

/-- The operation selector of an operation. -/
def Instr.op : Instr → Op
  | .sendb .. => .sendb
  | .sendw .. => .sendw
  | .setwin .. => .setwin
  | .fill .. => .fill
  | .blit .. => .blit
  | .sessbeg => .sessbeg
  | .sessend => .sessend
  | .initln .. => .initln
  | .halt => .halt

/-- An operation's descriptor length in words (30 R82). -/
def Instr.words (i : Instr) : Nat := i.op.words

/-- The SEL bit of a line selection (30 R88). -/
def selBit : LineSel → BitVec 1
  | .cmd => 1
  | .data => 0

/-- The FRM bit of a framing (30 R88). -/
def frmBit : Framing → BitVec 1
  | .last => 1
  | .cont => 0

/-- A field of a 32-bit word, its lowest bit at bit `lo`, zeros around it. -/
def place {w : Nat} (lo : Nat) (field : BitVec w) : Word := field.setWidth 32 <<< lo

/-- A header word from its fields: IMM16 [31:16], FRM [5], SEL / VALID [4], OP [3:0]; bits [15:6] are reserved and 0
(30 R80). -/
def headerWord (imm : Half) (frm sel : BitVec 1) (op : Op) : Word :=
  place 16 imm ||| place 5 frm ||| place 4 sel ||| place 0 op.field

/-- An extra word from its two halves (30 R83). -/
def halvesWord (high low : Half) : Word := place 16 high ||| place 0 low

/-- The words of an operation (30 R80, R83). In an extra word the second-named coordinate or token is the high half. -/
def encode : Instr → List Word
  | .sendb sel frm value => [headerWord (value.setWidth 16) (frmBit frm) (selBit sel) .sendb]
  | .sendw sel frm value => [headerWord value (frmBit frm) (selBit sel) .sendw]
  | .setwin x0 y0 x1 y1 => [headerWord 0 0 0 .setwin, halvesWord x1 x0, halvesWord y1 y0]
  | .fill color count => [headerWord color 0 0 .fill, count]
  | .blit base count => [headerWord 0 0 0 .blit, count, base]
  | .sessbeg => [headerWord 0 0 0 .sessbeg]
  | .sessend => [headerWord 0 0 0 .sessend]
  | .initln valid tc td => [headerWord 0 0 (BitVec.ofBool valid) .initln, halvesWord td tc]
  | .halt => [headerWord 0 0 0 .halt]

/-- The three words of the longest descriptor whose bits are `w`, the first word in bits 31 to 0, the second in bits 63 to 32,
the third in bits 95 to 64; bits at and above `nbits` are 0. -/
def tableWords (nbits w : Nat) : List Word :=
  [BitVec.ofNat 32 (w % 2 ^ nbits), BitVec.ofNat 32 (w % 2 ^ nbits / 2 ^ 32), BitVec.ofNat 32 (w % 2 ^ nbits / 2 ^ 64)]

/-- The operation the decoder reads from a descriptor whose bits are `w`, numbered as spec/opcode_table.json numbers them. -/
def decodeTableWord (nbits w : Nat) : Option Instr :=
  match decode (tableWords nbits w) with
  | .ok i _ => some i
  | .error _ => none

end Sys2Proof
end

