-- ==== Sys2Proof/Machine/State.lean ====
section
/-! DEFINITION. The machine's state as plain data, the reasons a step can stop, and the state after reset (10_state.md). -/

namespace Sys2Proof.Machine

/-- A memory of w-bit elements: (address, element) pairs, addresses strictly rising, no element equal to what an unlisted
address reads as (20 R54; log 6, 7). With w = 8 a pair is a `Host.Cell`. -/
abbrev Mem (w : Nat) := List (Nat × BitVec w)

/-- The value a frame carries: its width w is 8 or 16, its value v has w bits (10 R30). -/
inductive Payload where
  | byte (v : Byte)
  | half (v : Half)
deriving DecidableEq, Repr

/-- A frame of the send queue: ⟨tok, w, v, last⟩ (10 R30). -/
structure Frame where
  tok : Half
  val : Payload
  last : Bool
deriving DecidableEq, Repr

/-- A frame on the wire: the frame, and the bus configuration in force when it finished (10 R30, 40 R113). -/
structure WireFrame where
  frame : Frame
  cfg : BusCfg
deriving DecidableEq, Repr

/-- The sequencer's mode (10 R22). -/
inductive Mode where
  | run
  | halted
  | faulted
deriving DecidableEq, Repr

/-- Which consumer holds the shared serial bus (10 R27). -/
inductive Owner where
  | none
  | self
  | other
deriving DecidableEq, Repr

/-- The operation in progress and the index of its next micro-operation (10 R23). The length and the micro-operation list of
10 R23 are functions of `op` (`Instr.words`, `uopAt`), so they are computed and not held (log 13). -/
structure Active where
  op : Instr
  k : Nat
deriving DecidableEq, Repr

/-- The faults of the block (60 R201); `FaultCode.code` gives each its number. Raising one is a NEXT state of the model. -/
inductive FaultCode where
  | illegalOp
  | reservedField
  | fetchRange
  | noSession
  | sessionReentry
  | sessionNotOpen
  | endWhileBusy
  | zeroLengthRun
  | sourceRange
  | configLocked
  | badTokens
  | queueOverflow
  | portNotIdle
  | haltInSession
deriving DecidableEq, Repr

/-- How the agents interleave once the schedule is used up: the model's own, as plain data (00 R12; log 8). -/
inductive Policy where
  /-- one fixed order: whoever can move, the sequencer before the engine before another consumer's release (log 9) -/
  | eager
  /-- the listed moves, over and over: an agent that is not listed never moves, so a wait can last for ever (40 R119, 43 R169) -/
  | repeated (moves : List Move)
  /-- the free value `Config.freeMove`: any endless interleaving (log 8) -/
  | free
deriving DecidableEq, Repr

/-- Why a step stops. The block's own faults are no stop (60 R200 is a next state); these four are raised in states that no
run from reset reaches, and each is safe: the model stops where the spec has no such state. -/
inductive Fault where
  /-- raised by every operation's EXEC step where `cur.k` is past the end of its micro-operations (10 R23); safe -/
  | noMicroOp
  /-- raised by `exec i` where `cur` holds an operation other than i (10 R23); safe -/
  | otherOperation
  /-- raised by BLIT's SUBMIT where its PMEM address is at or past PMEM_SIZE (20 R52: such a read never occurs); safe -/
  | pmemOutside
  /-- raised by SESSEND's RELEASE where `saved_cfg` is unwritten (10 R28: cannot be read then); safe -/
  | savedCfgUnwritten
deriving DecidableEq, Repr

/-- What the model gives no meaning. -/
inductive Refusal where
  /-- raised by an arm of `exec` whose instruction has no meaning yet; no arm is left that raises it; safe -/
  | notModelled (mnemonic : String)
  /-- raised by a host write to status register `number`: every field is read-only (10 R35; U20); safe -/
  | statusWrite (number : Nat)
  /-- raised by a host read of status register `number`, 5 or above: reserved (10 R36; U20); safe -/
  | statusReserved (number : Nat)
  /-- raised by a host store to DMEM or PMEM outside the final state (20 R69, 70 R238; U19); safe -/
  | memoryFrozen
  /-- raised by a host store to an address past the end of DMEM or PMEM: no such element exists (20 R50); safe -/
  | hostAddress (address : Nat)
deriving DecidableEq, Repr

/-- The machine's state (10_state.md; INVENTORY.md lists each field with its rule). -/
structure State where
  /-- the parameters of 00 R7; no step writes them (10 R38; log 1) -/
  params : Params
  /-- descriptor memory (20 R51) -/
  dmem : Mem 32
  /-- pixel source memory (20 R52) -/
  pmem : Mem 16
  /-- 10 R22 -/
  mode : Mode
  /-- the descriptor pointer, a word address of DMEM, on naturals (10 R21, 30 R84; log 4) -/
  dp : Nat
  /-- the operation in progress (10 R23) -/
  cur : Option Active
  /-- the fault code, 0 for none (10 R24) -/
  fault : BitVec 8
  /-- the 32-bit value of `dp` when the fault was raised (10 R24) -/
  faultDp : Word
  /-- line-selector token of commands (10 R25) -/
  tokCmd : Half
  /-- line-selector token of data (10 R25) -/
  tokData : Half
  /-- INITLN has executed (10 R26) -/
  linesLocked : Bool
  /-- INITLN installed a valid token pair (10 R26) -/
  linesValid : Bool
  /-- 10 R27 -/
  owner : Owner
  /-- the current bus configuration (10 R28) -/
  busCfg : BusCfg
  /-- the configuration saved by the most recent SESSBEG; `none` is the spec's `unwritten` (10 R28) -/
  savedCfg : Option BusCfg
  /-- the send queue, oldest first (10 R29) -/
  txq : List Frame
  /-- the frame being transmitted (10 R31) -/
  shifter : Option Frame
  /-- the completion flag (10 R32) -/
  tcf : Bool
  /-- chip select, true for asserted (10 R33) -/
  cs : Bool
  /-- the wire log, oldest first (10 R34) -/
  wire : List WireFrame
  /-- the model's own: for each frame since reset, in the order of SUBMIT, whether a FILL or a BLIT submitted it. No step reads it;
  the controller view does (42 R147; log 28) -/
  fromRun : List Bool
  /-- the model's own: the moves of the agents still to come, oldest first (log 8) -/
  schedule : List Move
  /-- the model's own: who moves once the schedule is used up (log 8, 9) -/
  policy : Policy
  /-- the model's own: how many free values the policy has taken (log 8, 10) -/
  draws : Nat
deriving DecidableEq, Repr

/-- The machine right after reset (10 R37), under the default parameters, with nothing loaded, the launch owner NONE, no
move listed and the eager policy (log 2, 7, 11). -/
def State.reset : State where
  params := Params.default
  dmem := []
  pmem := []
  mode := .run
  dp := Params.default.launchDp
  cur := none
  fault := 0
  faultDp := 0
  tokCmd := Params.default.sentinel
  tokData := Params.default.sentinel
  linesLocked := false
  linesValid := false
  owner := .none
  busCfg := Params.default.initBusCfg
  savedCfg := none
  txq := []
  shifter := none
  tcf := false
  cs := false
  wire := []
  fromRun := []
  schedule := []
  policy := .eager
  draws := 0

end Sys2Proof.Machine
end

