-- ==== Sys2Proof/Machine/Memory.lean ====
section
/-! DEFINITION. The operations over DMEM and PMEM, whole elements only (20 R50 to R59). -/

namespace Sys2Proof.Machine

/-- The element listed at an address. -/
def Mem.get? {w : Nat} : Mem w → Nat → Option (BitVec w)
  | [], _ => none
  | (b, v) :: m, a => if a = b then some v else Mem.get? m a

/-- List an element at an address, replacing the one listed there; the addresses stay rising. -/
def Mem.put {w : Nat} : Mem w → Nat → BitVec w → Mem w
  | [], a, v => [(a, v)]
  | (b, u) :: m, a, v =>
    if a < b then (a, v) :: (b, u) :: m
    else if a = b then (a, v) :: m
    else (b, u) :: Mem.put m a v

/-- Take an address off the list. -/
def Mem.erase {w : Nat} : Mem w → Nat → Mem w
  | [], _ => []
  | (b, u) :: m, a => if a = b then m else (b, u) :: Mem.erase m a

/-- What an unlisted address reads as: zero (log 7; 30 R86 speaks of zeroed memory). -/
def Mem.unlisted {w : Nat} : BitVec w := 0#w

/-- `MemRead` (00 R10): the whole element at an address. -/
def Mem.read {w : Nat} (m : Mem w) (a : Nat) : BitVec w := (m.get? a).getD Mem.unlisted

/-- A host write of one whole element (20 R50), keeping the canonical form. -/
def Mem.write {w : Nat} (m : Mem w) (a : Nat) (v : BitVec w) : Mem w :=
  if v = Mem.unlisted then m.erase a else m.put a v

/-- Every listed address is at or above `lo`, the addresses rise strictly, and no listed element is what an unlisted address
reads as. -/
def Mem.wfFrom {w : Nat} : Nat → Mem w → Bool
  | _, [] => true
  | lo, (a, v) :: m => decide (lo ≤ a) && decide (v ≠ Mem.unlisted) && Mem.wfFrom (a + 1) m

/-- The canonical form: equal memories are equal lists. -/
def Mem.wf {w : Nat} (m : Mem w) : Bool := Mem.wfFrom 0 m

/-- Every listed address exists: it is below the memory's size (20 R50). -/
def Mem.within {w : Nat} (size : Nat) (m : Mem w) : Bool := m.all fun c => decide (c.1 < size)

/-- The host's load of consecutive elements from address `a` on into a memory of `size` elements; what would fall past the
end has no element to go to (70 R230; log 17). -/
def Mem.load {w : Nat} (size : Nat) : Nat → List (BitVec w) → Mem w → Mem w
  | _, [], m => m
  | a, v :: vs, m => Mem.load size (a + 1) vs (if a < size then m.write a v else m)

/-- `MemRead(DMEM, a)` where `a < DMEM_WORDS` (20 R51). -/
def readDmem (s : State) (a : Nat) : Option Word :=
  if a < s.params.dmemWords then some (s.dmem.read a) else none

/-- `MemRead(PMEM, a)` where `a < PMEM_SIZE` (20 R52). -/
def readPmem (s : State) (a : Nat) : Option Half :=
  if a < s.params.pmemSize then some (s.pmem.read a) else none

/-- The words of DMEM from `dp` on, at most the three of the longest descriptor (30 R84, R92). -/
def fetchWords (s : State) : List Word :=
  [s.dp, s.dp + 1, s.dp + 2].filterMap (readDmem s)

end Sys2Proof.Machine
end

