-- ==== Sys2Proof/Machine/Operands.lean ====
section
/-! DEFINITION. Micro-operations, the operand forms of SUBMIT, and the framing units every operation is built from
(40 R100, R101, R104, R111). -/

namespace Sys2Proof.Machine

/-- The source operand of SUBMIT, with its width: an immediate byte, an immediate 16-bit value, or the PMEM element at an
address, which is 16 bits wide (40 R100, 42 R141). -/
inductive Src where
  | byte (u : Byte)
  | half (u : Half)
  | pmem (a : Nat)
deriving DecidableEq, Repr

/-- A micro-operation (40 R100). SUBMIT's width is its source's. -/
inductive Uop where
  | submit (sel : LineSel) (src : Src) (last : Bool)
  | waitLe
  | clearTcf
  | waitEmpty
  | waitTcf
  | acquire
  | release
  | setLines (valid : Bool) (tc td : Half)
  | stopRun
deriving DecidableEq, Repr

/-- The value SUBMIT sends: an immediate unchanged, or the PMEM element (40 R104). -/
def readSrc (s : State) : Src → Option Payload
  | .byte u => some (.byte u)
  | .half u => some (.half u)
  | .pmem a => (readPmem s a).map .half

/-- `tokOf`: the token in force for a line selection (40 R111). -/
def tokOf (s : State) : LineSel → Half
  | .cmd => s.tokCmd
  | .data => s.tokData

/-- `unitC`: CONTINUE framing (40 R101). -/
def unitC (sel : LineSel) (src : Src) : List Uop :=
  [.submit sel src false, .waitLe]

/-- `unitL(sel, 8, src)`: LAST framing of a byte (40 R101). -/
def unitL8 (sel : LineSel) (src : Src) : List Uop :=
  [.clearTcf, .submit sel src true, .waitTcf]

/-- `unitL(sel, 16, src)`: LAST framing of a 16-bit value (40 R101). -/
def unitL16 (sel : LineSel) (src : Src) : List Uop :=
  [.clearTcf, .submit sel src true, .waitEmpty, .waitTcf]

/-- The k-th micro-operation of a pixel run of `count ≥ 1` elements whose n-th source is `pixel n`: `count − 1` CONTINUE units
and then one LAST unit, computed from k because the list need not be materialised (42 R140, R141). A zero count, which faults at
DECODE (42 R143), has none. -/
def runUop (count : Nat) (pixel : Nat → Src) (k : Nat) : Option Uop :=
  if count = 0 then none
  else if k < 2 * (count - 1) then (unitC .data (pixel (k / 2)))[k % 2]?
  else (unitL16 .data (pixel (count - 1)))[k - 2 * (count - 1)]?

end Sys2Proof.Machine
end

