-- ==== Sys2Proof/Machine/Flags.lean ====
section
/-! DEFINITION. The flags: the completion flag, chip select, and the conditions the waits and the session arbiter test
(10 R31 to R33, 40 R105 to R114, 43 R159). -/

namespace Sys2Proof.Machine

/-- The level, `len(txq)` (10 R29). -/
def State.level (s : State) : Nat := s.txq.length

/-- The port is idle: nothing queued, nothing shifting (10 R31). -/
def State.portIdle (s : State) : Bool := s.txq.isEmpty && s.shifter.isNone

/-- The port is quiescent: idle with chip select deasserted (43 R159). -/
def State.quiescent (s : State) : Bool := s.portIdle && !s.cs

/-- The completion flag after the FINISH of a frame: set by every frame under EACH_FRAME, by a LAST-tagged frame under TAGGED,
else unchanged (40 R113). -/
def tcfAfter (mode : TcfMode) (f : Frame) (tcf : Bool) : Bool :=
  if mode = .eachFrame ∨ f.last = true then true else tcf

/-- Chip select after the FINISH of a frame: it falls with a LAST-tagged frame only (40 R113, R114). -/
def csAfter (f : Frame) (cs : Bool) : Bool :=
  if f.last = true then false else cs

/-- The micro-operation holds: it has no enabled step in this state (40 R105 to R108, 43 R160). SUBMIT, CLEAR_TCF, RELEASE,
SETLINES and STOP never hold. -/
def State.holds (s : State) : Uop → Bool
  | .waitLe => decide (s.params.fullThreshold < s.level)
  | .waitEmpty => !s.txq.isEmpty
  | .waitTcf => !s.tcf
  | .acquire => decide (s.owner ≠ .none)
  | .submit .. | .clearTcf | .release | .setLines .. | .stopRun => false

end Sys2Proof.Machine
end

