-- ==== Sys2Proof/Machine/Ops.lean ====
section
/-! DEFINITION. The named operations on the state: raising a fault, retiring, the micro-operations, and the one shared
sequencer step every operation's meaning calls (40_transport.md, 43_session_config.md, 60_exceptions.md). -/

namespace Sys2Proof.Machine

/-- The number of a fault (60 R201). -/
def FaultCode.code : FaultCode → BitVec 8
  | .illegalOp => 1
  | .reservedField => 2
  | .fetchRange => 3
  | .noSession => 4
  | .sessionReentry => 5
  | .sessionNotOpen => 6
  | .endWhileBusy => 7
  | .zeroLengthRun => 8
  | .sourceRange => 9
  | .configLocked => 10
  | .badTokens => 11
  | .queueOverflow => 12
  | .portNotIdle => 13
  | .haltInSession => 14

/-! ### Updates of the state -/

/-- Fault entry, `raise Fault(code)`: the one operation that takes a fault (60 R200). There is no return from it (60 R204). -/
def State.raise (c : FaultCode) (s : State) : State :=
  { s with fault := c.code, faultDp := BitVec.ofNat 32 s.dp, mode := .faulted, cur := none }

/-- The end of a DECODE that found no fault: the operation is in progress at its first micro-operation (30 R84). -/
def State.begin (i : Instr) (s : State) : State :=
  { s with cur := some ⟨i, 0⟩ }

/-- `k <- k + 1` (40 R100). -/
def State.advance (i : Instr) (k : Nat) (s : State) : State :=
  { s with cur := some ⟨i, k + 1⟩ }

/-- Retirement: `dp <- dp + len`, `cur <- none` (40 R109). -/
def State.retire (len : Nat) (s : State) : State :=
  { s with dp := s.dp + len, cur := none }

/-- The operation is a pixel run (42 R140, R141). -/
def isPixelRun : Instr → Bool
  | .fill .. | .blit .. => true
  | .sendb .. | .sendw .. | .setwin .. | .sessbeg | .sessend | .initln .. | .halt => false

/-- The operation in progress is a pixel run. -/
def State.inRun (s : State) : Bool := s.cur.any fun a => isPixelRun a.op

/-- SUBMIT's append at the tail of the send queue (40 R104), with the model's own note of whether a run submits it (log 28). -/
def State.enqueue (f : Frame) (s : State) : State :=
  { s with txq := s.txq ++ [f], fromRun := s.fromRun ++ [s.inRun] }

/-- CLEAR_TCF (40 R106). -/
def State.clearTcf (s : State) : State :=
  { s with tcf := false }

/-- ACQUIRE's three writes: save the bus configuration, apply the session's, own the bus (43 R160). -/
def State.openSession (s : State) : State :=
  { s with savedCfg := some s.busCfg, busCfg := s.params.sessionCfg, owner := .self }

/-- RELEASE's two writes: restore the bus configuration, give the bus back (43 R161). -/
def State.closeSession (saved : BusCfg) (s : State) : State :=
  { s with busCfg := saved, owner := .none }

/-- SETLINES with VALID = 1 (43 R163). -/
def State.installLines (tc td : Half) (s : State) : State :=
  { s with linesLocked := true, tokCmd := tc, tokData := td, linesValid := true }

/-- SETLINES with VALID = 0: only the lock is set (43 R163). -/
def State.lockLines (s : State) : State :=
  { s with linesLocked := true }

/-- STOP: `mode <- HALTED`, `cur <- none`, `dp` stays at the HALT (43 R165). -/
def State.stop (s : State) : State :=
  { s with mode := .halted, cur := none }

/-- START: the frame at the head of the queue goes to the shifter and chip select rises (40 R112). -/
def State.startShift (f : Frame) (rest : List Frame) (s : State) : State :=
  { s with shifter := some f, txq := rest, cs := true }

/-- FINISH: the frame in the shifter is appended to the wire log with the bus configuration in force; the flags follow
(40 R113). -/
def State.finishShift (f : Frame) (s : State) : State :=
  { s with wire := s.wire ++ [⟨f, s.busCfg⟩], tcf := tcfAfter s.params.tcfMode f s.tcf, cs := csAfter f s.cs, shifter := none }

/-- OTHER_ACQUIRE (43 R166). -/
def State.otherTakes (s : State) : State :=
  { s with owner := .other }

/-- OTHER_RELEASE with its two draws (43 R167). -/
def State.otherGives (cfg : BusCfg) (tcf : Bool) (s : State) : State :=
  { s with owner := .none, busCfg := cfg, tcf := tcf }

/-- Reset: every component at its value in the table of 10 R37; the memories and the parameters are not reset, and the
schedule, the policy and the counter of free values are the model's own; `fromRun` starts again with the wire log. `other` is the launch owner's choice (70 R230). -/
def State.afterReset (other : Bool) (s : State) : State :=
  { s with
    mode := .run, dp := s.params.launchDp, cur := none, fault := 0, faultDp := 0,
    tokCmd := s.params.sentinel, tokData := s.params.sentinel, linesLocked := false, linesValid := false,
    owner := if other then .other else .none, busCfg := s.params.initBusCfg, savedCfg := none,
    txq := [], shifter := none, tcf := false, cs := false, wire := [],
    fromRun := [] }

/-- The host's load of both memories from address 0 (70 R230; log 17). -/
def State.loadMemories (program : List Word) (pixels : List Half) (s : State) : State :=
  { s with dmem := Mem.load s.params.dmemWords 0 program [], pmem := Mem.load s.params.pmemSize 0 pixels [] }

/-- The schedule without its head, or with a new head (log 8). -/
def State.setSchedule (moves : List Move) (s : State) : State :=
  { s with schedule := moves }

/-- One more free value taken by the policy (log 8, 10). -/
def State.countDraw (s : State) : State :=
  { s with draws := s.draws + 1 }

/-! ### Micro-operations -/

/-- What performing a micro-operation gives. -/
inductive Performed where
  /-- it is performed: the operation goes on with its next micro-operation, or retires -/
  | done (s : State)
  /-- STOP is performed: the operation neither goes on nor retires -/
  | stopped (s : State)
  /-- it has no enabled step -/
  | held
  /-- it raises a fault of the block -/
  | raised (c : FaultCode)
  /-- the model stops -/
  | stuck (f : Fault)
deriving DecidableEq, Repr

/-- SUBMIT: append one frame with the token in force; a full queue is QueueOverflow, never a drop (40 R104). -/
def doSubmit (sel : LineSel) (src : Src) (last : Bool) (s : State) : Performed :=
  if s.params.fifoDepth ≤ s.level then .raised .queueOverflow
  else
    match readSrc s src with
    | some v => .done (s.enqueue ⟨tokOf s sel, v, last⟩)
    | none => .stuck .pmemOutside

/-- ACQUIRE, where it does not hold: the port must be quiescent, then the three writes at once (43 R160). -/
def doAcquire (s : State) : Performed :=
  if s.quiescent then .done s.openSession else .raised .portNotIdle

/-- RELEASE: the port must be quiescent; it never waits (43 R161). -/
def doRelease (s : State) : Performed :=
  if s.quiescent then
    match s.savedCfg with
    | some saved => .done (s.closeSession saved)
    | none => .stuck .savedCfgUnwritten
  else .raised .endWhileBusy

/-- SETLINES (43 R163). -/
def doSetLines (valid : Bool) (tc td : Half) (s : State) : Performed :=
  .done (if valid then s.installLines tc td else s.lockLines)

/-- Perform one micro-operation, or hold (40 R100, R104 to R108). The waits write nothing. -/
def perform (u : Uop) (s : State) : Performed :=
  if s.holds u then .held
  else
    match u with
    | .submit sel src last => doSubmit sel src last s
    | .waitLe => .done s
    | .clearTcf => .done s.clearTcf
    | .waitEmpty => .done s
    | .waitTcf => .done s
    | .acquire => doAcquire s
    | .release => doRelease s
    | .setLines valid tc td => doSetLines valid tc td s
    | .stopRun => .stopped s.stop

/-! ### One sequencer step of an operation -/

/-- The DECODE step of an operation whose words decoded: its static check, then `cur` (30 R84). -/
def decodeStep (i : Instr) (check : Option FaultCode) (s : State) : State :=
  match check with
  | some c => s.raise c
  | none => s.begin i

/-- The EXEC step of micro-operation k: perform it, then `k <- k + 1`, or retire where it is the last one (40 R100, R109). A
micro-operation that holds changes nothing. -/
def execStep (i : Instr) (uop : Nat → Option Uop) (k : Nat) (s : State) : Host.Outcome State Fault Refusal :=
  match uop k with
  | none => .fault .noMicroOp
  | some u =>
    match perform u s with
    | .done t => .next (if (uop (k + 1)).isSome then t.advance i k else t.retire i.words)
    | .stopped t => .next t
    | .held => .next s
    | .raised c => .next (s.raise c)
    | .stuck f => .fault f

/-- The sequencer's step on operation i: its DECODE where no operation is in progress, the EXEC of its next micro-operation
where it is the one in progress. In HALTED and FAULTED the sequencer has no step (10 R22; log 12, 14, 15). -/
def sequencerOn (i : Instr) (check : Option FaultCode) (uop : Nat → Option Uop) (s : State) :
    Host.Outcome State Fault Refusal :=
  match s.mode with
  | .run =>
    match s.cur with
    | none => .next (decodeStep i check s)
    | some a => if a.op = i then execStep i uop a.k s else .fault .otherOperation
  | .halted => .next s
  | .faulted => .next s

/-! ### Static checks -/

/-- The static check of SENDB, SENDW, SETWIN, FILL and BLIT: NoSession (40 R117). -/
def checkSession (s : State) : Option FaultCode :=
  if s.owner = .self then none else some .noSession

/-- The static checks of a pixel run: NoSession, then ZeroLengthRun (42 R143, 60 R202). -/
def checkRun (count : Word) (s : State) : Option FaultCode :=
  if s.owner ≠ .self then some .noSession
  else if count.toNat = 0 then some .zeroLengthRun
  else none

end Sys2Proof.Machine
end

