-- ==== Sys2Proof/Machine/PixelStream.lean ====
section
/-! DEFINITION. FILL and BLIT (42_pixel_stream.md). -/

namespace Sys2Proof.Machine

/-- The k-th micro-operation of FILL: a run of `count` equal pixels (42 R140). -/
def fillUop (color : Half) (count : Word) (k : Nat) : Option Uop :=
  runUop count.toNat (fun _ => .half color) k

/-- FILL: a constant-colour run (42 R140). -/
def execFill (color : Half) (count : Word) (s : State) : Host.Outcome State Fault Refusal :=
  sequencerOn (.fill color count) (checkRun count s) (fillUop color count) s

/-- The static checks of BLIT: NoSession, ZeroLengthRun, then SourceRange iff `base + count > PMEM_SIZE` on naturals
(42 R141, R142; 60 R202). -/
def checkBlit (base count : Word) (s : State) : Option FaultCode :=
  match checkRun count s with
  | some c => some c
  | none => if s.params.pmemSize < base.toNat + count.toNat then some .sourceRange else none

/-- The k-th micro-operation of BLIT: a run of the `count` PMEM elements from `base` on (42 R141). -/
def blitUop (base count : Word) (k : Nat) : Option Uop :=
  runUop count.toNat (fun n => .pmem (base.toNat + n)) k

/-- BLIT: a varying-colour run from PMEM (42 R141). -/
def execBlit (base count : Word) (s : State) : Host.Outcome State Fault Refusal :=
  sequencerOn (.blit base count) (checkBlit base count s) (blitUop base count) s

end Sys2Proof.Machine
end

