-- ==== Sys2Proof/Machine/Session.lean ====
section
/-! DEFINITION. SESSBEG, SESSEND, INITLN and HALT (43_session_config.md). -/

namespace Sys2Proof.Machine

/-- The static check of SESSBEG: SessionReentry (43 R160). -/
def checkSessbeg (s : State) : Option FaultCode :=
  if s.owner = .self then some .sessionReentry else none

/-- SESSBEG: open a bus session (43 R160). -/
def execSessbeg (s : State) : Host.Outcome State Fault Refusal :=
  sequencerOn .sessbeg (checkSessbeg s) (fun k => [Uop.acquire][k]?) s

/-- The static check of SESSEND: SessionNotOpen (43 R161). -/
def checkSessend (s : State) : Option FaultCode :=
  if s.owner = .self then none else some .sessionNotOpen

/-- SESSEND: close the bus session (43 R161). -/
def execSessend (s : State) : Host.Outcome State Fault Refusal :=
  sequencerOn .sessend (checkSessend s) (fun k => [Uop.release][k]?) s

/-- The static checks of INITLN: ConfigLocked, then BadTokens; with VALID = 0 the tokens are not checked (43 R163). -/
def checkInitln (valid : Bool) (tc td : Half) (s : State) : Option FaultCode :=
  if s.linesLocked = true then some .configLocked
  else if valid = true ∧ (tc = td ∨ tc = s.params.sentinel ∨ td = s.params.sentinel) then some .badTokens
  else none

/-- INITLN: install the line-selector tokens, once (43 R163). -/
def execInitln (valid : Bool) (tc td : Half) (s : State) : Host.Outcome State Fault Refusal :=
  sequencerOn (.initln valid tc td) (checkInitln valid tc td s) (fun k => [Uop.setLines valid tc td][k]?) s

/-- The static check of HALT: HaltInSession (43 R165). -/
def checkHalt (s : State) : Option FaultCode :=
  if s.owner = .self then some .haltInSession else none

/-- HALT: end the descriptor program (43 R165). -/
def execHalt (s : State) : Host.Outcome State Fault Refusal :=
  sequencerOn .halt (checkHalt s) (fun k => [Uop.stopRun][k]?) s

end Sys2Proof.Machine
end

