-- ==== Sys2Proof/Machine/Transport.lean ====
section
/-! DEFINITION. SENDB and SENDW (40 R102, R103). -/

namespace Sys2Proof.Machine

/-- The micro-operations of SENDB (40 R102). -/
def sendbUops (sel : LineSel) (frm : Framing) (value : Byte) : List Uop :=
  match frm with
  | .cont => unitC sel (.byte value)
  | .last => unitL8 sel (.byte value)

/-- SENDB: send one byte with the chosen line selection and framing (40 R102). `cs` rises at the engine's START only (40 R112),
so with CONTINUE framing it can retire with its frame still queued and `cs` as it was, against the words of 70 R234: the model's choice
(log 29). -/
def execSendb (sel : LineSel) (frm : Framing) (value : Byte) (s : State) : Host.Outcome State Fault Refusal :=
  sequencerOn (.sendb sel frm value) (checkSession s) (fun k => (sendbUops sel frm value)[k]?) s

/-- The micro-operations of SENDW (40 R103). -/
def sendwUops (sel : LineSel) (frm : Framing) (value : Half) : List Uop :=
  match frm with
  | .cont => unitC sel (.half value)
  | .last => unitL16 sel (.half value)

/-- SENDW: send one 16-bit value with the chosen line selection and framing (40 R103). `cs` rises at the engine's START only (40 R112),
so with CONTINUE framing it can retire with its frame still queued and `cs` as it was, against the words of 70 R234: the model's choice
(log 29). -/
def execSendw (sel : LineSel) (frm : Framing) (value : Half) (s : State) : Host.Outcome State Fault Refusal :=
  sequencerOn (.sendw sel frm value) (checkSession s) (fun k => (sendwUops sel frm value)[k]?) s

end Sys2Proof.Machine
end

