-- ==== Sys2Proof/Machine/Window.lean ====
section
/-! DEFINITION. SETWIN (41 R130 to R135). -/

namespace Sys2Proof.Machine

/-- The micro-operations of SETWIN: seven CONTINUE units in the fixed order column command, x0, x1, row command, y0, y1,
memory-write command; no coordinate is checked (41 R130 to R132). -/
def setwinUops (p : Params) (x0 y0 x1 y1 : Half) : List Uop :=
  unitC .cmd (.byte p.cmdColset) ++ unitC .data (.half x0) ++ unitC .data (.half x1) ++
  unitC .cmd (.byte p.cmdRowset) ++ unitC .data (.half y0) ++ unitC .data (.half y1) ++
  unitC .cmd (.byte p.cmdMemwrite)

/-- SETWIN: set the controller's address window and open it for pixel data (41 R130). `cs` rises at the engine's START only
(40 R112), so a SETWIN that retires with all its frames still queued (FULL_THRESHOLD of 7 or more) leaves `cs` as it was, against the
words of 41 R130: the model's choice (log 29). -/
def execSetwin (x0 y0 x1 y1 : Half) (s : State) : Host.Outcome State Fault Refusal :=
  sequencerOn (.setwin x0 y0 x1 y1) (checkSession s) (fun k => (setwinUops s.params x0 y0 x1 y1)[k]?) s

end Sys2Proof.Machine
end

