-- ==== Sys2Proof/Machine/Dispatch.lean ====
section
/-! DEFINITION. One arm per operation: `exec i s` is the sequencer's step on operation i in state s (log 12). -/

namespace Sys2Proof.Machine

def exec (i : Instr) (s : State) : Host.Outcome State Fault Refusal :=
  match i with
  | .sendb sel frm value => Sys2Proof.Machine.execSendb sel frm value s
  | .sendw sel frm value => Sys2Proof.Machine.execSendw sel frm value s
  | .setwin x0 y0 x1 y1 => Sys2Proof.Machine.execSetwin x0 y0 x1 y1 s
  | .fill color count => Sys2Proof.Machine.execFill color count s
  | .blit base count => Sys2Proof.Machine.execBlit base count s
  | .sessbeg => Sys2Proof.Machine.execSessbeg s
  | .sessend => Sys2Proof.Machine.execSessend s
  | .initln valid tc td => Sys2Proof.Machine.execInitln valid tc td s
  | .halt => Sys2Proof.Machine.execHalt s

end Sys2Proof.Machine
end

