-- ==== Sys2Proof/Machine/Agents.lean ====
section
/-! DEFINITION. The agents: the sequencer's fetch and step, the shift engine, the host; and the choice of the agent that moves
(00 R12, 30 R84, 40 R112, R113, 43 R166, R167, 70 R230). -/

namespace Sys2Proof.Machine

/-! ### The sequencer -/

/-- The fault a rejected descriptor raises (30 R84, 60 R201). -/
def decodeFault : DecodeError → FaultCode
  | .truncated => .fetchRange
  | .illegalOp => .illegalOp
  | .reservedField => .reservedField

/-- The sequencer's step: in RUN with no operation in progress, fetch and decode at `dp`, and raise the decoder's fault or run
the operation's DECODE; with one in progress, run its EXEC. No step in HALTED and FAULTED (10 R22, 30 R84, 40 R100). -/
def sequencerStep (s : State) : Host.Outcome State Fault Refusal :=
  match s.mode with
  | .run =>
    match s.cur with
    | some a => exec a.op s
    | none =>
      match decode (fetchWords s) with
      | .ok i _ => exec i s
      | .error e => .next (s.raise (decodeFault e))
  | .halted => .next s
  | .faulted => .next s

/-- The k-th micro-operation of an operation, under the parameters in force: the list `uops` of 10 R23 as a function. -/
def uopAt (p : Params) : Instr → Nat → Option Uop
  | .sendb sel frm value, k => (sendbUops sel frm value)[k]?
  | .sendw sel frm value, k => (sendwUops sel frm value)[k]?
  | .setwin x0 y0 x1 y1, k => (setwinUops p x0 y0 x1 y1)[k]?
  | .fill color count, k => fillUop color count k
  | .blit base count, k => blitUop base count k
  | .sessbeg, k => [Uop.acquire][k]?
  | .sessend, k => [Uop.release][k]?
  | .initln valid tc td, k => [Uop.setLines valid tc td][k]?
  | .halt, k => [Uop.stopRun][k]?

/-- The static check of an operation (60 R202, item 5). -/
def staticCheck : Instr → State → Option FaultCode
  | .sendb .., s => checkSession s
  | .sendw .., s => checkSession s
  | .setwin .., s => checkSession s
  | .fill _ count, s => checkRun count s
  | .blit base count, s => checkBlit base count s
  | .sessbeg, s => checkSessbeg s
  | .sessend, s => checkSessend s
  | .initln valid tc td, s => checkInitln valid tc td s
  | .halt, s => checkHalt s

/-- The micro-operation the sequencer is at, where an operation is in progress. -/
def State.curUop (s : State) : Option Uop :=
  match s.cur with
  | some a => uopAt s.params a.op a.k
  | none => none

/-- The sequencer has an enabled step: RUN, and no micro-operation that holds (40 R100). -/
def State.sequencerEnabled (s : State) : Bool :=
  decide (s.mode = .run) &&
    match s.curUop with
    | some u => !s.holds u
    | none => true

/-! ### The shift engine -/

/-- The engine has an enabled step: FINISH, or START (40 R112, R113). -/
def State.engineEnabled (s : State) : Bool := s.shifter.isSome || !s.txq.isEmpty

/-- The engine's step, in every mode and under every owner; with the port idle it has none (40 R112, R113). -/
def engineStep (s : State) : State :=
  match s.shifter with
  | some f => s.finishShift f
  | none =>
    match s.txq with
    | f :: rest => s.startShift f rest
    | [] => s

/-! ### The host -/

/-- OTHER_ACQUIRE, enabled iff `owner = NONE` (43 R166). -/
def otherAcquire (s : State) : State :=
  if s.owner = .none then s.otherTakes else s

/-- OTHER_RELEASE with its draws, enabled iff `owner = OTHER` (43 R167). -/
def otherRelease (cfg : BusCfg) (tcf : Bool) (s : State) : State :=
  if s.owner = .other then s.otherGives cfg tcf else s

/-- One move of an agent; a move with no enabled step changes nothing (log 14). -/
def takeMove (m : Move) (s : State) : Host.Outcome State Fault Refusal :=
  match m with
  | .sequencer => sequencerStep s
  | .engine => .next (engineStep s)
  | .otherAcquire => .next (otherAcquire s)
  | .otherRelease cfg tcf => .next (otherRelease cfg tcf s)
  | .reset other => .next (s.afterReset other)
  | .launch other program pixels => .next ((s.loadMemories program pixels).afterReset other)

/-- Who moves under the eager policy: the sequencer if it has a step, else the engine if it has one, else, where another consumer
owns the bus of a running block, its release with the next free draws, else nobody (log 9, 10). -/
def eagerMove (s : State) : Option Move :=
  if s.sequencerEnabled then some .sequencer
  else if s.engineEnabled then some .engine
  else if s.mode = .run ∧ s.owner = .other then some (.otherRelease (Config.drawBusCfg s.draws) (Config.drawTcf s.draws))
  else none

/-- Who moves once the schedule is used up: the policy says (log 8, 9). Nobody where it repeats no move. -/
def policyMove (s : State) : Option Move :=
  match s.policy with
  | .eager => eagerMove s
  | .repeated moves => moves.head?
  | .free => some (Config.freeMove s.draws)

/-- Who moves next: the head of the schedule, or as the policy says (00 R12; log 8). -/
def nextMove (s : State) : Option Move :=
  match s.schedule with
  | m :: _ => some m
  | [] => policyMove s

/-- The state a move of the policy acts on: a repeated list is scheduled again, a free value is counted as taken. A policy may pass
over an agent with an enabled step for ever, the sequencer too: the model's choice (log 30). -/
def usePolicy (s : State) : State :=
  match s.policy with
  | .eager => if s.sequencerEnabled || s.engineEnabled then s else s.countDraw
  | .repeated moves => s.setSchedule moves.tail
  | .free => s.countDraw

/-- The state the next move acts on: a scheduled move is used up. -/
def useMove (s : State) : State :=
  match s.schedule with
  | _ :: rest => s.setSchedule rest
  | [] => usePolicy s

/-- One step of the machine: the next move, or nothing where nobody moves (log 14). -/
def oneStep (s : State) : Host.Outcome State Fault Refusal :=
  match nextMove s with
  | some m => takeMove m (useMove s)
  | none => .next s

/-- Store a word of DMEM where the address exists. -/
def State.storeDmem (a : Nat) (w : Word) (s : State) : State :=
  if a < s.params.dmemWords then { s with dmem := s.dmem.write a w } else s

/-- The descriptor words of `w`, as `tableWords` lays them out, stored at `dp`; the sequencer running, between operations and
the next to move, so that the very next step fetches and runs the descriptor. -/
def placeDescriptor (nbits w : Nat) (s : State) : State :=
  let t := ((s.storeDmem s.dp ((tableWords nbits w).getD 0 0)).storeDmem (s.dp + 1) ((tableWords nbits w).getD 1 0)).storeDmem
    (s.dp + 2) ((tableWords nbits w).getD 2 0)
  { t with mode := .run, cur := none, schedule := .sequencer :: s.schedule }

end Sys2Proof.Machine
end

