-- ==== Sys2Proof/Machine/Step.lean ====
section
/-! DEFINITION. One step of the machine, and the placing of a descriptor where the next step fetches it. -/

namespace Sys2Proof.Machine

/-- One step of one agent (00 R12; log 8, 9). -/
def step (s : State) : Host.Outcome State Fault Refusal := oneStep s

/-- `s` with the descriptor of `spec/opcode_table.json`'s numbering stored where `step` fetches its next instruction (log 23). -/
def State.withFetchWord (s : State) (nbits w : Nat) : State := placeDescriptor nbits w s

end Sys2Proof.Machine
end

