-- ==== Sys2Proof/Machine/Assembler.lean ====
section
/-! DEFINITION. The assembler: the syntax of 30 R90 and the pseudo-instructions of 30 R91. The machine does not use it; it says
which words a line of TDS-1 source stands for. -/

namespace Sys2Proof.Machine

/-- The mnemonics of the nine operations (30 R90) and of the pseudo-instructions (30 R91). -/
inductive Mnemonic where
  | sendb | sendw | setwin | fill | blit | sessbeg | sessend | initln | halt
  | wrcmd | wrcmdl | wrdata8 | wrdata8l | wrdata16 | wrdata16l | cmdargs | pixel | hrun | vrun | rect
deriving DecidableEq, Repr

/-- An operand of a source line: a number, CMD or DATA, CONT or LAST (30 R90). -/
inductive AsmOperand where
  | num (n : Nat)
  | sel (l : LineSel)
  | frm (f : Framing)
deriving DecidableEq, Repr

/-- A number that fits a w-bit field; the assembler refuses any other (30 R90). -/
def fit (w n : Nat) : Option (BitVec w) :=
  if n < 2 ^ w then some (BitVec.ofNat w n) else none

/-- Numbers that are all bytes. -/
def fitBytes : List AsmOperand → Option (List Byte)
  | [] => some []
  | .num n :: rest =>
    match fit 8 n, fitBytes rest with
    | some b, some bs => some (b :: bs)
    | _, _ => none
  | _ :: _ => none

/-- The argument bytes of a command: the last one is LAST-framed (30 R91, CMDARGS). -/
def argBytes : List Byte → List Instr
  | [] => []
  | [a] => [.sendb .data .last a]
  | a :: b :: rest => .sendb .data .cont a :: argBytes (b :: rest)

/-- CMDARGS c, a1, …, an (30 R91). -/
def cmdArgs (c : Byte) : List Byte → List Instr
  | [] => [.sendb .cmd .last c]
  | a :: rest => .sendb .cmd .cont c :: argBytes (a :: rest)

/-- SETWIN x0, y0, x1, y1, refused unless each coordinate fits its field (30 R90). -/
def asmSetwin (x0 y0 x1 y1 : Nat) : Option Instr :=
  match fit 16 x0, fit 16 y0, fit 16 x1, fit 16 y1 with
  | some a, some b, some c, some d => some (.setwin a b c d)
  | _, _, _, _ => none

/-- FILL color, count, refused unless each fits its field (30 R90). -/
def asmFill (color count : Nat) : Option Instr :=
  match fit 16 color, fit 32 count with
  | some c, some n => some (.fill c n)
  | _, _ => none

/-- SETWIN then FILL: the body of PIXEL, HRUN, VRUN and RECT (30 R91). -/
def asmRun (x0 y0 x1 y1 color count : Nat) : Option (List Instr) :=
  match asmSetwin x0 y0 x1 y1, asmFill color count with
  | some a, some b => some [a, b]
  | _, _ => none

/-- INITLN valid, tok_cmd, tok_data (30 R90). -/
def asmInitln (valid tc td : Nat) : Option Instr :=
  match fit 1 valid, fit 16 tc, fit 16 td with
  | some v, some a, some b => some (.initln (decide (v = 1)) a b)
  | _, _, _ => none

/-- The operations a source line stands for; none where the assembler refuses it. Arithmetic is on naturals (30 R91). -/
def assemble : Mnemonic → List AsmOperand → Option (List Instr)
  | .sendb, [.sel l, .frm f, .num n] => (fit 8 n).map fun v => [.sendb l f v]
  | .sendw, [.sel l, .frm f, .num n] => (fit 16 n).map fun v => [.sendw l f v]
  | .setwin, [.num x0, .num y0, .num x1, .num y1] => (asmSetwin x0 y0 x1 y1).map fun i => [i]
  | .fill, [.num c, .num n] => (asmFill c n).map fun i => [i]
  | .blit, [.num b, .num n] =>
    match fit 32 b, fit 32 n with
    | some b, some n => some [.blit b n]
    | _, _ => none
  | .sessbeg, [] => some [.sessbeg]
  | .sessend, [] => some [.sessend]
  | .initln, [.num v, .num a, .num b] => (asmInitln v a b).map fun i => [i]
  | .halt, [] => some [.halt]
  | .wrcmd, [.num c] => (fit 8 c).map fun v => [.sendb .cmd .cont v]
  | .wrcmdl, [.num c] => (fit 8 c).map fun v => [.sendb .cmd .last v]
  | .wrdata8, [.num d] => (fit 8 d).map fun v => [.sendb .data .cont v]
  | .wrdata8l, [.num d] => (fit 8 d).map fun v => [.sendb .data .last v]
  | .wrdata16, [.num d] => (fit 16 d).map fun v => [.sendw .data .cont v]
  | .wrdata16l, [.num d] => (fit 16 d).map fun v => [.sendw .data .last v]
  | .cmdargs, .num c :: args =>
    match fit 8 c, fitBytes args with
    | some b, some bs => some (cmdArgs b bs)
    | _, _ => none
  | .pixel, [.num x, .num y, .num c] => asmRun x y x y c 1
  | .hrun, [.num x, .num y, .num w, .num c] => if w = 0 then none else asmRun x y (x + w - 1) y c w
  | .vrun, [.num x, .num y, .num h, .num c] => if h = 0 then none else asmRun x y x (y + h - 1) c h
  | .rect, [.num x, .num y, .num w, .num h, .num c] =>
    if w = 0 ∨ h = 0 then none
    else (asmRun x y (x + w - 1) (y + h - 1) c (w * h)).map fun is => .sessbeg :: is ++ [.sessend]
  | _, _ => none

/-! ### The text of a line -/

/-- The spelling of each mnemonic (30 R90, R91). -/
def mnemonicNames : List (String × Mnemonic) :=
  [ ("SENDB", .sendb), ("SENDW", .sendw), ("SETWIN", .setwin), ("FILL", .fill), ("BLIT", .blit), ("SESSBEG", .sessbeg),
    ("SESSEND", .sessend), ("INITLN", .initln), ("HALT", .halt), ("WRCMD", .wrcmd), ("WRCMDL", .wrcmdl),
    ("WRDATA8", .wrdata8), ("WRDATA8L", .wrdata8l), ("WRDATA16", .wrdata16), ("WRDATA16L", .wrdata16l),
    ("CMDARGS", .cmdargs), ("PIXEL", .pixel), ("HRUN", .hrun), ("VRUN", .vrun), ("RECT", .rect) ]

/-- The mnemonic a word spells, capitals as the syntax has them (log 24). -/
def mnemonicOf (word : List Char) : Option Mnemonic :=
  (mnemonicNames.find? fun r => decide (r.1.toList = word)).map fun r => r.2

/-- Blank space between the parts of a line (log 24). -/
def isBlank (c : Char) : Bool := c = ' ' || c = '\t'

/-- A piece of text without the blanks around it. -/
def trimBlanks (t : List Char) : List Char :=
  ((t.dropWhile isBlank).reverse.dropWhile isBlank).reverse

/-- The pieces of text between commas. -/
def splitCommas : List Char → List (List Char)
  | [] => [[]]
  | c :: rest =>
    if c = ',' then [] :: splitCommas rest
    else
      match splitCommas rest with
      | [] => [[c]]
      | piece :: pieces => (c :: piece) :: pieces

/-- The value of a digit in a base up to 16. -/
def digitValue (base : Nat) (c : Char) : Option Nat :=
  let n := c.toNat
  let d := if 48 ≤ n ∧ n ≤ 57 then n - 48 else if 65 ≤ n ∧ n ≤ 70 then n - 55 else if 97 ≤ n ∧ n ≤ 102 then n - 87 else 16
  if d < base then some d else none

/-- The value of a run of digits. -/
def digitsValue (base : Nat) : Nat → List Char → Option Nat
  | acc, [] => some acc
  | acc, c :: rest =>
    match digitValue base c with
    | some d => digitsValue base (acc * base + d) rest
    | none => none

/-- A number: decimal, or hexadecimal after 0x (30 R90). -/
def parseNumber : List Char → Option Nat
  | [] => none
  | ['0', 'x'] => none
  | '0' :: 'x' :: rest => digitsValue 16 0 rest
  | c :: rest => digitsValue 10 0 (c :: rest)

/-- An operand: a name of a line or a framing, or a number (30 R90). -/
def parseOperand (t : List Char) : Option AsmOperand :=
  if t = "CMD".toList then some (.sel .cmd)
  else if t = "DATA".toList then some (.sel .data)
  else if t = "CONT".toList then some (.frm .cont)
  else if t = "LAST".toList then some (.frm .last)
  else (parseNumber t).map .num

/-- The operands after a mnemonic, separated by commas; none at all where only blanks follow. -/
def parseOperands (t : List Char) : Option (List AsmOperand) :=
  if trimBlanks t = [] then some []
  else (splitCommas t).mapM fun piece => parseOperand (trimBlanks piece)

/-- One line: at most one descriptor or pseudo-instruction, a comment from `;` on; a line without one gives no operation
(30 R90). -/
def assembleLine (line : List Char) : Option (List Instr) :=
  let text := (line.takeWhile fun c => decide (c ≠ ';')).dropWhile isBlank
  if text = [] then some []
  else
    match mnemonicOf (text.takeWhile fun c => !isBlank c), parseOperands (text.dropWhile fun c => !isBlank c) with
    | some m, some ops => assemble m ops
    | _, _ => none

/-- The words of a source program, packed in order; none where a line is refused (30 R90, R92). -/
def assembleProgram : List (List Char) → Option (List Word)
  | [] => some []
  | line :: rest =>
    match assembleLine line, assembleProgram rest with
    | some is, some ws => some (is.flatMap encode ++ ws)
    | _, _ => none

end Sys2Proof.Machine
end

