-- ==== Sys2Proof/Machine/ControllerView.lean ====
section
/-! DEFINITION. The controller view, the observation helper that says what the wire log means to the display controller
(20 R55, R62 to R68). No rule of the block reads it. -/

namespace Sys2Proof.Machine

/-! ### From the wire log to bytes -/

/-- The bytes of a frame in the order they are sent: a 16-bit frame high byte first (20 R55). -/
def Payload.bytes : Payload → List Byte
  | .byte v => [v]
  | .half v => [v.extractLsb' 8 8, v.extractLsb' 0 8]

/-- A 16-bit value from its high and its low byte: `{high, low}` (00 R10, 20 R64, R66). -/
def joinBytes (high low : Byte) : Half := high.setWidth 16 <<< 8 ||| low.setWidth 16

/-- The bits of a byte in the order they are sent: most significant first (20 R55). -/
def sentBits (b : Byte) : List Bool :=
  [b.getLsbD 7, b.getLsbD 6, b.getLsbD 5, b.getLsbD 4, b.getLsbD 3, b.getLsbD 2, b.getLsbD 1, b.getLsbD 0]

/-- The bits of the whole wire log in the order they were sent (20 R55, R57). -/
def wireBits (log : List WireFrame) : List Bool :=
  log.flatMap fun f => f.frame.val.bytes.flatMap sentBits

/-- A wire frame is delivered to the controller iff the lines are valid, the tokens differ and the frame's token is one of
them (20 R62). -/
def delivered (s : State) (f : WireFrame) : Bool :=
  s.linesValid && decide (f.frame.tok = s.tokCmd ∨ f.frame.tok = s.tokData) && decide (s.tokCmd ≠ s.tokData)

/-- A delivered frame is a command frame iff its token is the command token (20 R62). -/
def lineOf (s : State) (f : WireFrame) : LineSel :=
  if f.frame.tok = s.tokCmd then .cmd else .data

/-- The bytes of a frame, each with the frame's kind (20 R63). -/
def Frame.kindBytes (sel : LineSel) (f : Frame) : List (LineSel × Byte) := f.val.bytes.map fun b => (sel, b)

/-- The byte stream the controller receives, each byte with its frame's kind (20 R63). -/
def controllerBytes (s : State) : List (LineSel × Byte) :=
  (s.wire.filter (delivered s)).flatMap fun f => f.frame.kindBytes (lineOf s f)

/-! ### The controller -/

/-- What the view knows of the controller. `none` in a window register (20 R64) or in the write cursor (log 31) is unknown; a cell
of the frame memory that is not listed is unknown, and `lost` says that no cell has a value from here on (20 R67). -/
structure View where
  xs : Option Half
  xe : Option Half
  ys : Option Half
  ye : Option Half
  /-- the command the data bytes belong to -/
  command : Option Byte
  /-- the parameter bytes of a column-set or row-set command so far, oldest first -/
  params : List Byte
  /-- the window is open (20 R65) -/
  isOpen : Bool
  /-- the write cursor's column, taken from XS when the window opens (20 R65) -/
  cx : Option Nat
  /-- the write cursor's row, taken from YS when the window opens (20 R65) -/
  cy : Option Nat
  /-- pixels written since the window opened (20 R65) -/
  n : Nat
  /-- the first byte of a pixel whose second byte has not arrived -/
  half : Option Byte
  /-- the known cells, keyed by `y * CTRL_W + x` -/
  cells : Mem 16
  lost : Bool
deriving DecidableEq, Repr

/-- At the start of a run everything is unknown (20 R64, R68); no window is open and no pixel is counted, as no command has come
(log 31). -/
def View.start : View where
  xs := none
  xe := none
  ys := none
  ye := none
  command := none
  params := []
  isOpen := false
  cx := none
  cy := none
  n := 0
  half := none
  cells := []
  lost := false

/-- The window registers a column-set or row-set command names are unknown until it has exactly four parameter bytes
(20 R64; log 19). -/
def View.forgetNamed (p : Params) (c : Byte) (v : View) : View :=
  { v with
    xs := if c = p.cmdColset then none else v.xs, xe := if c = p.cmdColset then none else v.xe,
    ys := if c = p.cmdRowset then none else v.ys, ye := if c = p.cmdRowset then none else v.ye }

/-- A command byte: a pixel's first byte left alone before it loses the frame memory (20 R67; log 27); it closes an open window;
CMD_MEMWRITE opens one at (XS, YS), a cursor as unknown as they are (log 31); a command other than the three
makes every cell unknown (20 R65). -/
def View.commandByte (p : Params) (c : Byte) (v : View) : View :=
  let w := { v with lost := v.lost || v.half.isSome, half := none, command := some c, params := [], isOpen := false }
  let w := w.forgetNamed p c
  if c = p.cmdMemwrite then { w with isOpen := true, cx := w.xs.map BitVec.toNat, cy := w.ys.map BitVec.toNat, n := 0 }
  else if c = p.cmdColset ∨ c = p.cmdRowset then w
  else { w with cells := [] }

/-- A parameter byte of a column-set or row-set command: the fourth sets the registers, a fifth makes them unknown
(20 R64). -/
def View.addressByte (p : Params) (c b : Byte) (v : View) : View :=
  let w := { v with params := v.params ++ [b] }
  match w.params with
  | [b0, b1, b2, b3] =>
    { w with
      xs := if c = p.cmdColset then some (joinBytes b0 b1) else w.xs, xe := if c = p.cmdColset then some (joinBytes b2 b3) else w.xe,
      ys := if c = p.cmdRowset then some (joinBytes b0 b1) else w.ys, ye := if c = p.cmdRowset then some (joinBytes b2 b3) else w.ye }
  | _ => w.forgetNamed p c

/-- The window's bounds (XS, XE, YS, YE) where all are known, ordered and inside the frame memory (20 R66). -/
def View.bounds (p : Params) (v : View) : Option (Nat × Nat × Nat × Nat) :=
  match v.xs, v.xe, v.ys, v.ye with
  | some xs, some xe, some ys, some ye =>
    if xs.toNat ≤ xe.toNat ∧ xe.toNat < p.ctrlW ∧ ys.toNat ≤ ye.toNat ∧ ye.toNat < p.ctrlH then
      some (xs.toNat, xe.toNat, ys.toNat, ye.toNat)
    else none
  | _, _, _, _ => none

/-- Write one pixel at the cursor (cx, cy) and move the cursor on, row to row; at the window's capacity, counted in pixels (C1), the
window closes (20 R66). -/
def View.writePixel (p : Params) (xs xe ys ye cx cy : Nat) (value : Half) (v : View) : View :=
  { v with
    half := none,
    cells := Mem.put v.cells (cy * p.ctrlW + cx) value,
    n := v.n + 1,
    cx := some (if cx < xe then cx + 1 else xs),
    cy := some (if cx < xe then cy else cy + 1),
    isOpen := decide (v.n + 1 ≠ (xe - xs + 1) * (ye - ys + 1)) }

/-- A data byte after CMD_MEMWRITE: two make a pixel, high byte first; outside an open, known, ordered and in-range window the
frame memory is lost (20 R66, R67), and so it is where the cursor is unknown (log 31). -/
def View.pixelByte (p : Params) (b : Byte) (v : View) : View :=
  match v.isOpen, v.bounds p, v.cx, v.cy with
  | true, some (xs, xe, ys, ye), some cx, some cy =>
    match v.half with
    | none => { v with half := some b }
    | some high => v.writePixel p xs xe ys ye cx cy (joinBytes high b)
  | _, _, _, _ => { v with lost := true }

/-- A data byte: a parameter of the command in force. Data before any command is undefined and loses the frame memory
(42 R147; log 20). After a command other than CMD_MEMWRITE it is that command's parameter and no pixel, so an odd number of such
bytes loses nothing (log 27, the model's choice); whether a FILL or a BLIT sent them is `View.strayRun`'s matter (log 28). -/
def View.dataByte (p : Params) (b : Byte) (v : View) : View :=
  match v.command with
  | none => { v with lost := true }
  | some c =>
    let w := if c = p.cmdColset ∨ c = p.cmdRowset then v.addressByte p c b else v
    if c = p.cmdMemwrite then w.pixelByte p b else w

/-- One byte of the stream. -/
def View.receive (p : Params) (v : View) (kb : LineSel × Byte) : View :=
  match kb with
  | (.cmd, b) => v.commandByte p b
  | (.data, b) => v.dataByte p b

/-- A frame of a FILL or a BLIT with no open window: the run makes the frame memory unknown (42 R147, 70 R235). -/
def View.strayRun (fromRun : Bool) (v : View) : Bool := fromRun && !v.isOpen

/-- One delivered frame. A frame of a run that no open window takes loses the frame memory, whatever the command in force is
(42 R147; log 28); in any case the frame's bytes are received in order (20 R63), a command's parameters as parameters (20 R64). -/
def View.receiveFrame (p : Params) (sel : LineSel) (fromRun : Bool) (f : Frame) (v : View) : View :=
  (f.kindBytes sel).foldl (View.receive p) { v with lost := v.lost || v.strayRun fromRun }

/-- One wire frame with its place in the log, which is its place in the order of SUBMIT (20 R60). -/
def View.receiveAt (s : State) (v : View) (fk : WireFrame × Nat) : View :=
  if delivered s fk.1 then v.receiveFrame s.params (lineOf s fk.1) (s.fromRun.getD fk.2 false) fk.1.frame else v

/-- The controller view of a state: its delivered frames in wire order (20 R62 to R68). It reads neither `cfg` nor `cs`. -/
def controllerView (s : State) : View := s.wire.zipIdx.foldl (View.receiveAt s) View.start

/-- The value of frame-memory cell FM[x, y], where the view gives it one. A pixel whose second byte is missing at the end
leaves the memory unknown (20 R67; log 20). -/
def View.cell (p : Params) (v : View) (x y : Nat) : Option Half :=
  if v.lost = true ∨ v.half ≠ none ∨ p.ctrlW ≤ x ∨ p.ctrlH ≤ y then none else Mem.get? v.cells (y * p.ctrlW + x)

end Sys2Proof.Machine
end

