-- ==== Sys2Proof/Machine/HostPort.lean ====
section
/-! DEFINITION. What the host reads of the block, and the accesses the block refuses it (10 R35, R36; 20 R50; 70 R233, R238). -/

namespace Sys2Proof.Machine

/-- STATUS.MODE (10 R35). -/
def modeField : Mode → BitVec 2
  | .run => 0
  | .halted => 1
  | .faulted => 2

/-- STATUS.OWNER (10 R35). -/
def ownerField : Owner → BitVec 2
  | .none => 0
  | .self => 1
  | .other => 2

/-- Status register 0, STATUS: reserved [31:18], OWNER [17:16], TXLEVEL [15:8], LINES_VALID [7], LINES_LOCKED [6], CS [5],
SHIFTER_BUSY [4], TCF [3], SESSION_OPEN [2], MODE [1:0] (10 R35). A level above 255, which CfgWF excludes, shows its low
8 bits (log 18). -/
def statusWord (s : State) : Word :=
  place 16 (ownerField s.owner) ||| place 8 (BitVec.ofNat 8 s.level) ||| place 7 (BitVec.ofBool s.linesValid) |||
    place 6 (BitVec.ofBool s.linesLocked) ||| place 5 (BitVec.ofBool s.cs) ||| place 4 (BitVec.ofBool s.shifter.isSome) |||
    place 3 (BitVec.ofBool s.tcf) ||| place 2 (BitVec.ofBool (s.owner = .self)) ||| place 0 (modeField s.mode)

/-- A host read of status register `n` (10 R35, R36). -/
def readStatus (n : Nat) (s : State) : Except Refusal Word :=
  match n with
  | 0 => .ok (statusWord s)
  | 1 => .ok (place 0 s.fault)
  | 2 => .ok s.faultDp
  | 3 => .ok (BitVec.ofNat 32 s.dp)
  | 4 => .ok (halvesWord s.tokData s.tokCmd)
  | n => .error (.statusReserved n)

/-- A host write to a status register is refused, whatever the register and the value (10 R35). -/
def writeStatus (n : Nat) (_value : Word) (_s : State) : Host.Outcome State Fault Refusal :=
  .refused (.statusWrite n)

/-- A final state: halted, port quiescent, no fault (70 R233). -/
def State.final (s : State) : Bool :=
  decide (s.mode = .halted) && s.quiescent && decide (s.fault = 0)

/-- A host store to DMEM: it has a meaning between runs only (20 R50, 70 R238). -/
def hostStoreDmem (a : Nat) (w : Word) (s : State) : Host.Outcome State Fault Refusal :=
  if s.final = false then .refused .memoryFrozen
  else if a < s.params.dmemWords then .next (s.storeDmem a w)
  else .refused (.hostAddress a)

/-- A host store to PMEM: it has a meaning between runs only (20 R50, 70 R238). -/
def hostStorePmem (a : Nat) (v : Half) (s : State) : Host.Outcome State Fault Refusal :=
  if s.final = false then .refused .memoryFrozen
  else if a < s.params.pmemSize then .next { s with pmem := s.pmem.write a v }
  else .refused (.hostAddress a)

end Sys2Proof.Machine
end

