-- ==== Sys2Proof/Safety.lean ====
section
/-! DEFINITION. What counts as a good state and a good run: the launch premises (70 R230), the invariants of the block, the
handshake invariant behind 40 R110 and R115, the end of a run (70 R233) and the fairness premises (70 R240). -/

namespace Sys2Proof.Machine

/-! ### Invariants of every step -/

/-- DMEM and PMEM are in canonical form and list existing addresses only (20 R50, R54). -/
def State.memoryOk (s : State) : Bool :=
  s.dmem.wf && s.dmem.within s.params.dmemWords && s.pmem.wf && s.pmem.within s.params.pmemSize

/-- The level is within the queue's capacity, and a busy shifter has chip select asserted (10 R29, 40 R114). -/
def State.portOk (s : State) : Bool :=
  decide (s.level ≤ s.params.fifoDepth) && (s.shifter.isNone || s.cs)

/-- Outside a session the port is quiescent; inside one the session's configuration is in force and the prior one is saved
(43 R159 to R161, R165). -/
def State.sessionOk (s : State) : Bool :=
  if s.owner = .self then s.savedCfg.isSome && decide (s.busCfg = s.params.sessionCfg) else s.quiescent

/-- The tokens are SENTINEL until INITLN installs a valid pair, which differs from SENTINEL and from each other
(10 R25, R26; 43 R163, R164). -/
def State.linesOk (s : State) : Bool :=
  if s.linesValid then
    s.linesLocked && decide (s.tokCmd ≠ s.tokData ∧ s.tokCmd ≠ s.params.sentinel ∧ s.tokData ≠ s.params.sentinel)
  else decide (s.tokCmd = s.params.sentinel ∧ s.tokData = s.params.sentinel)

/-- The fault register: 0 exactly outside FAULTED, and a code of the table in it (60 R200, R201). -/
def State.faultOk (s : State) : Bool :=
  if s.mode = .faulted then decide (1 ≤ s.fault.toNat ∧ s.fault.toNat ≤ 14) else decide (s.fault = 0 ∧ s.faultDp = 0)

/-- `dp` never passes the end of DMEM (10 R21). -/
def State.dpOk (s : State) : Bool := decide (s.dp ≤ s.params.dmemWords)

/-- An operation in progress: the sequencer runs, a micro-operation is left, the descriptor lies in DMEM, and its static check
still holds (10 R23). A halted block has no session (43 R165). -/
def State.progressOk (s : State) : Bool :=
  match s.cur with
  | none => decide (s.mode = .halted → s.owner ≠ .self)
  | some a =>
    decide (s.mode = .run) && (uopAt s.params a.op a.k).isSome && decide (s.dp + a.op.words ≤ s.params.dmemWords) &&
      (staticCheck a.op s).isNone

/-- The invariant of the block: every step keeps it (under `Params.wf`), and reset has it. -/
abbrev State.Inv (s : State) : Prop :=
  s.memoryOk = true ∧ s.portOk = true ∧ s.sessionOk = true ∧ s.linesOk = true ∧ s.faultOk = true ∧ s.dpOk = true ∧
    s.progressOk = true

/-! ### The handshake invariant -/

/-- The frames submitted and not yet on the wire, oldest first. -/
def State.outstanding (s : State) : List Frame := s.shifter.toList ++ s.txq

/-- None of them is tagged LAST. -/
def noneTagged (fs : List Frame) : Bool := fs.all fun f => !f.last

/-- The frame an operation tags LAST: the one its LAST unit submits. -/
def taggedFrame (s : State) : Instr → Option Frame
  | .sendb sel .last value => some ⟨tokOf s sel, .byte value, true⟩
  | .sendw sel .last value => some ⟨tokOf s sel, .half value, true⟩
  | .fill color _ => some ⟨s.tokData, .half color, true⟩
  | .blit base count => some ⟨s.tokData, .half (s.pmem.read (base.toNat + (count.toNat - 1))), true⟩
  | _ => none

/-- The wait for the tagged frame: it is the newest outstanding frame, the only tagged one, and the flag is clear; or it has
finished, it is the newest entry of the wire, the port is quiescent and the flag is set (40 R115). -/
def State.awaiting (s : State) (f : Frame) : Bool :=
  if s.tcf then s.quiescent && decide (s.wire.getLast? = some ⟨f, s.busCfg⟩)
  else decide (s.outstanding.getLast? = some f) && noneTagged s.outstanding.dropLast

/-- Where the sequencer stands in the completion handshake (40 R110, R115). -/
def State.handshakeOk (s : State) : Bool :=
  let room := decide (s.level ≤ s.params.fullThreshold) && noneTagged s.outstanding
  match s.cur, s.curUop with
  | some _, some (.submit _ _ true) => room && !s.tcf
  | some _, some .waitLe => noneTagged s.outstanding
  | some a, some .waitEmpty => (taggedFrame s a.op).any s.awaiting
  | some a, some .waitTcf => (taggedFrame s a.op).any s.awaiting
  | _, _ => room

/-! ### Runs -/

/-- The launch premise PortQuiet (70 R230). -/
def State.portQuiet (s : State) : Bool := s.quiescent

/-- The launch premise NoFault (70 R230). -/
def State.noFault (s : State) : Bool := decide (s.fault = 0)

/-- An endless sequence of steps: each state is the step of the one before. A move that is not enabled is a step that changes
nothing (log 14), so moves of that kind alone are such a sequence: that is what `ProperRun` rules out (log 30). -/
def IsRun (r : Nat → State) : Prop := ∀ n, step (r n) = .next (r (n + 1))

/-- A sequencer step that stays enabled is eventually taken (log 30). -/
def SequencerProgress (r : Nat → State) : Prop :=
  ∀ n, ∃ m, n ≤ m ∧ ((r m).sequencerEnabled = false ∨ nextMove (r m) = some .sequencer)

/-- A run in the sense of 70 R240: the sequencer is not passed over for ever while it has a step. The spec rests the end of a run
on EngineFair and OthersRelease alone, so that the sequencer goes on is part of what a run is: the model's choice (log 30). A hold
that lasts for ever is such a run, because a holding sequencer has no step. -/
def ProperRun (r : Nat → State) : Prop := IsRun r ∧ SequencerProgress r

/-- A move by which the host starts the block again (70 R230). -/
def Move.restarts : Move → Bool
  | .reset _ | .launch .. => true
  | .sequencer | .engine | .otherAcquire | .otherRelease .. => false

/-- Nobody resets or launches the block during the run. -/
def NoRestart (r : Nat → State) : Prop := ∀ n m, nextMove (r n) = some m → m.restarts = false

/-- The run in progress ends at this state: it is final, or the host starts the block again (70 R230, R238). The load of a launch
falls at the restart (log 17). -/
def State.runEnds (s : State) : Bool := s.final || (nextMove s).any Move.restarts

/-- The launch premise MemFrozen: nobody writes DMEM or PMEM until the run is final or the block is reset again (70 R230, R238). It
says so of each run in the sequence, and nothing of a state where one has ended. -/
def MemFrozen (r : Nat → State) : Prop :=
  ∀ n, (r n).runEnds = false → (r (n + 1)).dmem = (r n).dmem ∧ (r (n + 1)).pmem = (r n).pmem

/-- The premise EngineFair: an engine step that stays enabled is eventually taken (70 R240). -/
def EngineFair (r : Nat → State) : Prop :=
  ∀ n, ∃ m, n ≤ m ∧ ((r m).engineEnabled = false ∨ nextMove (r m) = some .engine)

/-- The premise OthersRelease: another consumer that owns the bus eventually gives it back, and a waiting ACQUIRE eventually
finds the bus free at a move of the sequencer (70 R240). -/
def OthersRelease (r : Nat → State) : Prop :=
  (∀ n, (r n).owner = .other → ∃ m, n ≤ m ∧ (r m).owner = .none) ∧
  (∀ n, (r n).curUop = some .acquire → ∃ m, n ≤ m ∧ (r m).owner = .none ∧ nextMove (r m) = some .sequencer)

end Sys2Proof.Machine
end

