-- ==== Sys2Proof/Certificates/Slice0/Obligations.lean ====
section
/-! DEFINITION. The statements for the provers, from the numbered rules of spec/. -/

open Sys2Proof Sys2Proof.Machine

/-! ### Words the statements use -/

/-- The state with the fault of number `c` raised, written out (60 R200). At a `dp` of 2^32 or more, which only the top of a DMEM
of 2^32 words can give, the low 32 bits in `fault_dp` are the model's (log 5). -/
def Sys2Proof.Claims.faulted (c : Nat) (s : State) : State :=
  { s with fault := BitVec.ofNat 8 c, faultDp := BitVec.ofNat 32 s.dp, mode := .faulted, cur := none }

/-- The sequencer runs and is between operations: it is at a DECODE. -/
abbrev Sys2Proof.Claims.between (s : State) : Prop := s.mode = .run ∧ s.cur = none

/-- The sequencer runs and is at micro-operation `k` of operation `i`. -/
abbrev Sys2Proof.Claims.atUop (i : Instr) (k : Nat) (s : State) : Prop := s.mode = .run ∧ s.cur = some ⟨i, k⟩

/-- The operation goes on with micro-operation `k`. -/
def Sys2Proof.Claims.goesTo (i : Instr) (k : Nat) (s : State) : State := { s with cur := some ⟨i, k⟩ }

/-- The operation retires, `len` words long (40 R109). -/
def Sys2Proof.Claims.retires (len : Nat) (s : State) : State := { s with dp := s.dp + len, cur := none }

/-- The two operations that are pixel runs. -/
def Sys2Proof.Claims.runOperation : Instr → Bool
  | .fill .. | .blit .. => true
  | .sendb .. | .sendw .. | .setwin .. | .sessbeg | .sessend | .initln .. | .halt => false

/-- One frame more at the tail of the queue. `run` is the model's own note of whether a pixel run submitted it (log 28). -/
def Sys2Proof.Claims.queued (run : Bool) (f : Frame) (s : State) : State :=
  { s with txq := s.txq ++ [f], fromRun := s.fromRun ++ [run] }

/-- The token a line selection puts on a frame (40 R111). -/
def Sys2Proof.Claims.token (s : State) (sel : LineSel) : Half :=
  match sel with
  | .cmd => s.tokCmd
  | .data => s.tokData

/-- The number of micro-operations of an operation, counted from the rules of section 40 to 43. -/
def Sys2Proof.Claims.uopCount : Instr → Nat
  | .sendb _ .cont _ => 2
  | .sendb _ .last _ => 3
  | .sendw _ .cont _ => 2
  | .sendw _ .last _ => 4
  | .setwin .. => 14
  | .fill _ count => if count = 0 then 0 else 2 * (count.toNat - 1) + 4
  | .blit _ count => if count = 0 then 0 else 2 * (count.toNat - 1) + 4
  | .sessbeg => 1
  | .sessend => 1
  | .initln .. => 1
  | .halt => 1

/-- The length in words of an operation (30 R82). -/
def Sys2Proof.Claims.wordCount : Instr → Nat
  | .sendb .. | .sendw .. | .sessbeg | .sessend | .halt => 1
  | .fill .. | .initln .. => 2
  | .setwin .. | .blit .. => 3

/-- Micro-operation `k` of `i` is passed with nothing written but the place: the next one, or retirement. -/
def Sys2Proof.Claims.passed (i : Instr) (k : Nat) (s : State) : State :=
  if k + 1 = Claims.uopCount i then Claims.retires (Claims.wordCount i) s else Claims.goesTo i (k + 1) s

/-- The five operations that submit frames. -/
def Sys2Proof.Claims.busOperation : Instr → Bool
  | .sendb .. | .sendw .. | .setwin .. | .fill .. | .blit .. => true
  | .sessbeg | .sessend | .initln .. | .halt => false

/-- The seven frames of SETWIN, in order (41 R130, R131). -/
def Sys2Proof.Claims.setwinFrames (s : State) (x0 y0 x1 y1 : Half) : List Frame :=
  [ ⟨s.tokCmd, .byte s.params.cmdColset, false⟩, ⟨s.tokData, .half x0, false⟩, ⟨s.tokData, .half x1, false⟩,
    ⟨s.tokCmd, .byte s.params.cmdRowset, false⟩, ⟨s.tokData, .half y0, false⟩, ⟨s.tokData, .half y1, false⟩,
    ⟨s.tokCmd, .byte s.params.cmdMemwrite, false⟩ ]

/-- The next move is not a reset and not a launch. -/
def Sys2Proof.Claims.goesOnRunning (s : State) : Bool :=
  match nextMove s with
  | some m => !m.restarts
  | none => true

/-- OP, RMASK and length of the nine operations, copied from 30 R81, R82 and R85. -/
def Sys2Proof.Claims.headers : List (BitVec 4 × Word × Nat) :=
  [ (0x1, 0xFF00FFC0, 1), (0x2, 0x0000FFC0, 1), (0x3, 0xFFFFFFF0, 3), (0x4, 0x0000FFF0, 2), (0x5, 0xFFFFFFF0, 3),
    (0x6, 0xFFFFFFF0, 1), (0x7, 0xFFFFFFF0, 1), (0x8, 0xFFFFFFE0, 2), (0xF, 0xFFFFFFF0, 1) ]

/-- A pixel run of `count` pixels, operation `i`, whose n-th pixel is `pixel n`: what each of its micro-operations does where it
is enabled. -/
def Sys2Proof.Claims.runSteps (i : Instr) (count : Nat) (pixel : Nat → Half) (s : State) : Prop :=
  (∀ n, n + 1 < count → Claims.atUop i (2 * n) s → s.txq.length < s.params.fifoDepth →
    exec i s = .next (Claims.goesTo i (2 * n + 1) (Claims.queued true ⟨s.tokData, .half (pixel n), false⟩ s))) ∧
  (∀ n, n + 1 < count → Claims.atUop i (2 * n + 1) s → s.txq.length ≤ s.params.fullThreshold →
    exec i s = .next (Claims.goesTo i (2 * n + 2) s)) ∧
  (Claims.atUop i (2 * (count - 1)) s → exec i s = .next (Claims.goesTo i (2 * (count - 1) + 1) { s with tcf := false })) ∧
  (Claims.atUop i (2 * (count - 1) + 1) s → s.txq.length < s.params.fifoDepth →
    exec i s =
      .next (Claims.goesTo i (2 * (count - 1) + 2) (Claims.queued true ⟨s.tokData, .half (pixel (count - 1)), true⟩ s))) ∧
  (Claims.atUop i (2 * (count - 1) + 2) s → s.txq = [] → exec i s = .next (Claims.goesTo i (2 * (count - 1) + 3) s)) ∧
  (Claims.atUop i (2 * (count - 1) + 3) s → s.tcf = true → exec i s = .next (Claims.retires (Claims.wordCount i) s))

/-! ### Encoding -/

/-- 30 R80 to R88: decoding the words of an operation gives it back, whatever follows. -/
def Obligations.DecodeOfEncodeIsTheInstruction : Prop :=
  ∀ (i : Instr) (rest : List Word), decode (encode i ++ rest) = .ok i rest

/-- 30 R85, R89: words that decode are the words of the operation they decode to; no bit is ignored. -/
def Obligations.EncodeOfDecodeIsTheWords : Prop :=
  ∀ (ws : List Word) (i : Instr) (rest : List Word), decode ws = .ok i rest → ws = encode i ++ rest

/-- 30 R85, R89: an encoding is legal exactly when it matches a row of the opcode table and has the row's length. -/
def Obligations.DecodeAcceptsExactlyTheTable : Prop :=
  ∀ ws : List Word, wellFormedDescriptor ws = true ↔ ∃ i, decode ws = .ok i []

/-- 95 §2.1: one word of every operation, as the spec writes it out. -/
def Obligations.SpecEncodingsDecode : Prop :=
  decode [0x00290031] = .ok (.sendb .cmd .last 0x29) [] ∧
  decode [0x12340002] = .ok (.sendw .data .cont 0x1234) [] ∧
  decode [0x00000003, 0x000B000A, 0x00160014] = .ok (.setwin 10 20 11 22) [] ∧
  decode [0xF8000004, 0x00000006] = .ok (.fill 0xF800 6) [] ∧
  decode [0x00000005, 0x00000003, 0x00000010] = .ok (.blit 0x10 3) [] ∧
  decode [0x00000006] = .ok .sessbeg [] ∧
  decode [0x00000007] = .ok .sessend [] ∧
  decode [0x00000018, 0x00010003] = .ok (.initln true 0x0003 0x0001) [] ∧
  decode [0x0000000F] = .ok .halt []

/-- 30 R85: a header with a reserved bit set raises ReservedField (fault code 2), for each operation's mask; and a legal header
satisfies `w0 AND (RMASK OR 0xF) = op`. -/
def Obligations.ReservedHeaderBitsFault : Prop :=
  ∀ op mask len, (op, mask, len) ∈ Claims.headers →
    (∀ s : State, nextMove s = some .sequencer → Claims.between s → s.dp + len ≤ s.params.dmemWords →
      (s.dmem.read s.dp).extractLsb' 0 4 = op → s.dmem.read s.dp &&& mask ≠ 0 →
      step s = .next (Claims.faulted 2 (useMove s))) ∧
    (∀ w0 : Word, w0.extractLsb' 0 4 = op → (w0 &&& mask = 0 ↔ w0 &&& (mask ||| 0xF) = op.setWidth 32))

/-- 30 R86: OP = 0x0 and OP = 0x9 to 0xE select no operation, and DECODE raises IllegalOp (fault code 1), whatever the other
bits are. -/
def Obligations.IllegalOpFaults : Prop :=
  ∀ s : State, nextMove s = some .sequencer → Claims.between s → s.dp < s.params.dmemWords →
    (s.dmem.read s.dp).extractLsb' 0 4 ∈ [0x0#4, 0x9#4, 0xA#4, 0xB#4, 0xC#4, 0xD#4, 0xE#4] →
    step s = .next (Claims.faulted 1 (useMove s))

/-- 30 R84, 60 R202: a header at or past the end of DMEM, and a legal OP whose words reach past it, whatever the reserved bits
are, raise FetchRange (code 3). That `fault_dp` holds the low 32 bits of `dp`, 0 at `dp` = DMEM_WORDS = 2^32, is the model's
choice (log 5). -/
def Obligations.FetchPastTheEndFaults : Prop :=
  ∀ s : State, nextMove s = some .sequencer → Claims.between s →
    (s.params.dmemWords ≤ s.dp → step s = .next (Claims.faulted 3 (useMove s))) ∧
    (∀ op mask len, (op, mask, len) ∈ Claims.headers → s.dp < s.params.dmemWords → s.params.dmemWords < s.dp + len →
      (s.dmem.read s.dp).extractLsb' 0 4 = op → step s = .next (Claims.faulted 3 (useMove s)))

/-- 30 R84: where the words from `dp` on decode to `i` and the sequencer moves, the step is `exec i`, on the state with only the
schedule and the counter of free values moved on. -/
def Obligations.StepRunsTheDecodedInstruction : Prop :=
  ∀ (s : State) (i : Instr) (rest : List Word), nextMove s = some .sequencer → Claims.between s →
    decode (fetchWords s) = .ok i rest →
    step s = exec i (useMove s) ∧ ∃ ms d, useMove s = { s with schedule := ms, draws := d }

/-- 40 R100: where an operation is in progress and the sequencer moves, the step is `exec` of it; in HALTED and FAULTED the
sequencer has no step, and that its move then answers the unchanged state is the model's choice (log 14). -/
def Obligations.StepContinuesTheOperation : Prop :=
  ∀ s : State, nextMove s = some .sequencer →
    (∀ a, s.mode = .run → s.cur = some a → step s = exec a.op (useMove s)) ∧
    (s.mode ≠ .run → step s = .next (useMove s))

/-! ### Static checks -/

/-- 40 R117: the five bus operations outside a session raise NoSession (fault code 4) at DECODE. -/
def Obligations.BusOperationsNeedASession : Prop :=
  ∀ (s : State) (i : Instr), Claims.between s → Claims.busOperation i = true → s.owner ≠ .self →
    exec i s = .next (Claims.faulted 4 s)

/-- 42 R143: in a session, a run with `count = 0` raises ZeroLengthRun (code 8) at DECODE and submits nothing. -/
def Obligations.ZeroLengthRunsFault : Prop :=
  ∀ s : State, Claims.between s → s.owner = .self →
    (∀ color, exec (.fill color 0) s = .next (Claims.faulted 8 s)) ∧
    (∀ base, exec (.blit base 0) s = .next (Claims.faulted 8 s))

/-- 42 R142: BLIT faults SourceRange (code 9) at DECODE iff `base + count > PMEM_SIZE` on naturals; where the check passes it
begins, and every address of the run is below PMEM_SIZE. -/
def Obligations.BlitChecksItsSourceRange : Prop :=
  ∀ (s : State) (base count : Word), Claims.between s → s.owner = .self → count ≠ 0 →
    (s.params.pmemSize < base.toNat + count.toNat → exec (.blit base count) s = .next (Claims.faulted 9 s)) ∧
    (base.toNat + count.toNat ≤ s.params.pmemSize →
      exec (.blit base count) s = .next (Claims.goesTo (.blit base count) 0 s) ∧
      ∀ n, n < count.toNat → base.toNat + n < s.params.pmemSize)

/-- 30 R84, 60 R202: an operation whose static checks pass is in progress after its DECODE, and nothing else changes. -/
def Obligations.OperationsBegin : Prop :=
  ∀ s : State, Claims.between s →
    (∀ sel frm value, s.owner = .self →
      exec (.sendb sel frm value) s = .next (Claims.goesTo (.sendb sel frm value) 0 s)) ∧
    (∀ sel frm value, s.owner = .self →
      exec (.sendw sel frm value) s = .next (Claims.goesTo (.sendw sel frm value) 0 s)) ∧
    (∀ x0 y0 x1 y1, s.owner = .self → exec (.setwin x0 y0 x1 y1) s = .next (Claims.goesTo (.setwin x0 y0 x1 y1) 0 s)) ∧
    (∀ color count, s.owner = .self → count ≠ 0 →
      exec (.fill color count) s = .next (Claims.goesTo (.fill color count) 0 s)) ∧
    (∀ base count : Word, s.owner = .self → count ≠ 0 → base.toNat + count.toNat ≤ s.params.pmemSize →
      exec (.blit base count) s = .next (Claims.goesTo (.blit base count) 0 s)) ∧
    (s.owner ≠ .self → exec .sessbeg s = .next (Claims.goesTo .sessbeg 0 s)) ∧
    (s.owner = .self → exec .sessend s = .next (Claims.goesTo .sessend 0 s)) ∧
    (∀ valid tc td, s.linesLocked = false →
      (valid = true → tc ≠ td ∧ tc ≠ s.params.sentinel ∧ td ≠ s.params.sentinel) →
      exec (.initln valid tc td) s = .next (Claims.goesTo (.initln valid tc td) 0 s)) ∧
    (s.owner ≠ .self → exec .halt s = .next (Claims.goesTo .halt 0 s))

/-! ### What each operation does -/

/-- 40 R101 to R103: SENDB and SENDW, micro-operation by micro-operation, in both framings. -/
def Obligations.SendOperationsRun : Prop :=
  ∀ (s : State) (sel : LineSel),
    (∀ v : Byte,
      (Claims.atUop (.sendb sel .cont v) 0 s → s.txq.length < s.params.fifoDepth →
        exec (.sendb sel .cont v) s =
          .next (Claims.goesTo (.sendb sel .cont v) 1 (Claims.queued false ⟨Claims.token s sel, .byte v, false⟩ s))) ∧
      (Claims.atUop (.sendb sel .cont v) 1 s → s.txq.length ≤ s.params.fullThreshold →
        exec (.sendb sel .cont v) s = .next (Claims.retires 1 s)) ∧
      (Claims.atUop (.sendb sel .last v) 0 s →
        exec (.sendb sel .last v) s = .next (Claims.goesTo (.sendb sel .last v) 1 { s with tcf := false })) ∧
      (Claims.atUop (.sendb sel .last v) 1 s → s.txq.length < s.params.fifoDepth →
        exec (.sendb sel .last v) s =
          .next (Claims.goesTo (.sendb sel .last v) 2 (Claims.queued false ⟨Claims.token s sel, .byte v, true⟩ s))) ∧
      (Claims.atUop (.sendb sel .last v) 2 s → s.tcf = true →
        exec (.sendb sel .last v) s = .next (Claims.retires 1 s))) ∧
    (∀ v : Half,
      (Claims.atUop (.sendw sel .cont v) 0 s → s.txq.length < s.params.fifoDepth →
        exec (.sendw sel .cont v) s =
          .next (Claims.goesTo (.sendw sel .cont v) 1 (Claims.queued false ⟨Claims.token s sel, .half v, false⟩ s))) ∧
      (Claims.atUop (.sendw sel .cont v) 1 s → s.txq.length ≤ s.params.fullThreshold →
        exec (.sendw sel .cont v) s = .next (Claims.retires 1 s)) ∧
      (Claims.atUop (.sendw sel .last v) 0 s →
        exec (.sendw sel .last v) s = .next (Claims.goesTo (.sendw sel .last v) 1 { s with tcf := false })) ∧
      (Claims.atUop (.sendw sel .last v) 1 s → s.txq.length < s.params.fifoDepth →
        exec (.sendw sel .last v) s =
          .next (Claims.goesTo (.sendw sel .last v) 2 (Claims.queued false ⟨Claims.token s sel, .half v, true⟩ s))) ∧
      (Claims.atUop (.sendw sel .last v) 2 s → s.txq = [] →
        exec (.sendw sel .last v) s = .next (Claims.goesTo (.sendw sel .last v) 3 s)) ∧
      (Claims.atUop (.sendw sel .last v) 3 s → s.tcf = true →
        exec (.sendw sel .last v) s = .next (Claims.retires 1 s)))

/-- 41 R130 to R132: SETWIN submits its seven frames in the fixed order, each a CONTINUE unit, whatever the coordinates, and
retires after the last wait. -/
def Obligations.SetwinSubmitsItsSevenFrames : Prop :=
  ∀ (s : State) (x0 y0 x1 y1 : Half) (n : Nat) (f : Frame), (Claims.setwinFrames s x0 y0 x1 y1)[n]? = some f →
    (Claims.atUop (.setwin x0 y0 x1 y1) (2 * n) s → s.txq.length < s.params.fifoDepth →
      exec (.setwin x0 y0 x1 y1) s = .next (Claims.goesTo (.setwin x0 y0 x1 y1) (2 * n + 1) (Claims.queued false f s))) ∧
    (Claims.atUop (.setwin x0 y0 x1 y1) (2 * n + 1) s → s.txq.length ≤ s.params.fullThreshold →
      exec (.setwin x0 y0 x1 y1) s =
        .next (if n = 6 then Claims.retires 3 s else Claims.goesTo (.setwin x0 y0 x1 y1) (2 * n + 2) s))

/-- 42 R140, R144, R145: FILL submits `count` frames of its colour, the last one tagged, with one barrier. -/
def Obligations.FillSubmitsItsRun : Prop :=
  ∀ (s : State) (color : Half) (count : Word), count ≠ 0 →
    Claims.runSteps (.fill color count) count.toNat (fun _ => color) s

/-- 42 R141, R144, R145: BLIT submits the `count` PMEM elements from `base` on, the last one tagged, with one barrier. -/
def Obligations.BlitSubmitsItsRun : Prop :=
  ∀ (s : State) (base count : Word), count ≠ 0 → base.toNat + count.toNat ≤ s.params.pmemSize →
    Claims.runSteps (.blit base count) count.toNat (fun n => s.pmem.read (base.toNat + n)) s

/-- 43 R160: SESSBEG. While another consumer owns the bus ACQUIRE holds; that a step at the hold answers the unchanged state is
the model's choice (log 14). -/
def Obligations.SessbegOpensTheSession : Prop :=
  ∀ s : State,
    (Claims.between s → s.owner = .self → exec .sessbeg s = .next (Claims.faulted 5 s)) ∧
    (Claims.between s → s.owner ≠ .self → exec .sessbeg s = .next (Claims.goesTo .sessbeg 0 s)) ∧
    (Claims.atUop .sessbeg 0 s → s.owner ≠ .none → exec .sessbeg s = .next s) ∧
    (Claims.atUop .sessbeg 0 s → s.owner = .none → ¬(s.txq = [] ∧ s.shifter = none ∧ s.cs = false) →
      exec .sessbeg s = .next (Claims.faulted 13 s)) ∧
    (Claims.atUop .sessbeg 0 s → s.owner = .none → s.txq = [] → s.shifter = none → s.cs = false →
      exec .sessbeg s = .next (Claims.retires 1
        { s with savedCfg := some s.busCfg, busCfg := s.params.sessionCfg, owner := .self }))

/-- 43 R161: SESSEND. -/
def Obligations.SessendClosesTheSession : Prop :=
  ∀ s : State,
    (Claims.between s → s.owner ≠ .self → exec .sessend s = .next (Claims.faulted 6 s)) ∧
    (Claims.between s → s.owner = .self → exec .sessend s = .next (Claims.goesTo .sessend 0 s)) ∧
    (Claims.atUop .sessend 0 s → ¬(s.txq = [] ∧ s.shifter = none ∧ s.cs = false) →
      exec .sessend s = .next (Claims.faulted 7 s)) ∧
    (∀ saved, Claims.atUop .sessend 0 s → s.txq = [] → s.shifter = none → s.cs = false → s.savedCfg = some saved →
      exec .sessend s = .next (Claims.retires 1 { s with busCfg := saved, owner := .none }))

/-- 43 R163: INITLN. -/
def Obligations.InitlnInstallsTheLines : Prop :=
  ∀ (s : State) (tc td : Half),
    (∀ valid, Claims.between s → s.linesLocked = true → exec (.initln valid tc td) s = .next (Claims.faulted 10 s)) ∧
    (Claims.between s → s.linesLocked = false → (tc = td ∨ tc = s.params.sentinel ∨ td = s.params.sentinel) →
      exec (.initln true tc td) s = .next (Claims.faulted 11 s)) ∧
    (Claims.between s → s.linesLocked = false → ¬(tc = td ∨ tc = s.params.sentinel ∨ td = s.params.sentinel) →
      exec (.initln true tc td) s = .next (Claims.goesTo (.initln true tc td) 0 s)) ∧
    (Claims.between s → s.linesLocked = false →
      exec (.initln false tc td) s = .next (Claims.goesTo (.initln false tc td) 0 s)) ∧
    (Claims.atUop (.initln true tc td) 0 s →
      exec (.initln true tc td) s = .next (Claims.retires 2
        { s with linesLocked := true, tokCmd := tc, tokData := td, linesValid := true })) ∧
    (Claims.atUop (.initln false tc td) 0 s →
      exec (.initln false tc td) s = .next (Claims.retires 2 { s with linesLocked := true }))

/-- 43 R165: HALT; `dp` stays at the HALT's address. -/
def Obligations.HaltStopsTheSequencer : Prop :=
  ∀ s : State,
    (Claims.between s → s.owner = .self → exec .halt s = .next (Claims.faulted 14 s)) ∧
    (Claims.between s → s.owner ≠ .self → exec .halt s = .next (Claims.goesTo .halt 0 s)) ∧
    (Claims.atUop .halt 0 s → exec .halt s = .next { s with mode := .halted, cur := none })

/-! ### Micro-operations -/

/-- 10 R23, 40 R100: an operation has exactly its counted micro-operations, `0 ≤ k < len(uops)`. -/
def Obligations.ExpansionsHaveTheirLength : Prop :=
  ∀ (p : Params) (i : Instr) (k : Nat), (uopAt p i k).isSome = true ↔ k < Claims.uopCount i

/-- 42 R140, R141: the k-th micro-operation of a run, which the model computes from k, is the k-th of the list the spec writes
out: `count − 1` CONTINUE units and then one LAST unit. -/
def Obligations.RunExpansionsAreTheListsOfUnits : Prop :=
  ∀ (p : Params) (count : Word), count ≠ 0 →
    (∀ (color : Half) (k : Nat), uopAt p (.fill color count) k =
      (((List.replicate (count.toNat - 1) [Uop.submit .data (.half color) false, .waitLe]).flatten ++
        [.clearTcf, .submit .data (.half color) true, .waitEmpty, .waitTcf])[k]?)) ∧
    (∀ (base : Word) (k : Nat), uopAt p (.blit base count) k =
      ((((List.range (count.toNat - 1)).map fun n => [Uop.submit .data (.pmem (base.toNat + n)) false, .waitLe]).flatten ++
        [.clearTcf, .submit .data (.pmem (base.toNat + count.toNat - 1)) true, .waitEmpty, .waitTcf])[k]?))

/-- 40 R105 to R108: the waits pass iff their condition holds and write nothing; CLEAR_TCF always passes and writes `tcf`
alone; WAIT_EMPTY stands only in 16-bit LAST framing, between SUBMIT and WAIT_TCF. That a step at a wait that holds
answers the unchanged state is the model's choice (log 14): the spec has no such step (40 R100). -/
def Obligations.WaitsHoldOrPass : Prop :=
  ∀ (s : State) (i : Instr) (k : Nat), Claims.atUop i k s →
    (uopAt s.params i k = some .waitLe →
      exec i s = .next (if s.txq.length ≤ s.params.fullThreshold then Claims.passed i k s else s)) ∧
    (uopAt s.params i k = some .clearTcf → exec i s = .next (Claims.passed i k { s with tcf := false })) ∧
    (uopAt s.params i k = some .waitEmpty →
      exec i s = .next (if s.txq = [] then Claims.passed i k s else s) ∧
      ∃ sel src, uopAt s.params i (k - 1) = some (.submit sel src true) ∧ (∀ u, src ≠ .byte u) ∧ 1 ≤ k ∧
        uopAt s.params i (k + 1) = some .waitTcf) ∧
    (uopAt s.params i k = some .waitTcf → exec i s = .next (if s.tcf = true then Claims.passed i k s else s))

/-- 40 R104, R111: SUBMIT appends one frame with the token in force, or raises QueueOverflow (code 12) on a full queue; the
value is the immediate, or the PMEM element. -/
def Obligations.SubmitAppendsOneFrame : Prop :=
  ∀ (s : State) (i : Instr) (k : Nat) (sel : LineSel) (src : Src) (last : Bool), Claims.atUop i k s →
    uopAt s.params i k = some (.submit sel src last) →
    (s.params.fifoDepth ≤ s.txq.length → exec i s = .next (Claims.faulted 12 s)) ∧
    (s.txq.length < s.params.fifoDepth →
      (∀ u, src = .byte u →
        exec i s = .next (Claims.passed i k (Claims.queued (Claims.runOperation i) ⟨Claims.token s sel, .byte u, last⟩ s))) ∧
      (∀ u, src = .half u →
        exec i s = .next (Claims.passed i k (Claims.queued (Claims.runOperation i) ⟨Claims.token s sel, .half u, last⟩ s))) ∧
      (∀ a, src = .pmem a → a < s.params.pmemSize →
        exec i s = .next (Claims.passed i k (Claims.queued (Claims.runOperation i) ⟨Claims.token s sel, .half (s.pmem.read a), last⟩ s))))

/-- 40 R100, R109: an EXEC step that ends in RUN holds, goes on with the next micro-operation and keeps `dp`, or performs the
last one and retires, `dp` moved on by the operation's length. HALT's one step ends in HALTED with `dp` kept. That a step at a hold
answers the unchanged state is the model's choice (log 14). -/
def Obligations.OperationsAdvanceOrRetire : Prop :=
  ∀ (s t : State) (i : Instr) (k : Nat), Claims.atUop i k s → exec i s = .next t →
    (t.mode = .run →
      t = s ∨
      (k + 1 < Claims.uopCount i ∧ t.cur = some ⟨i, k + 1⟩ ∧ t.dp = s.dp) ∨
      (k + 1 = Claims.uopCount i ∧ t.cur = none ∧ t.dp = s.dp + Claims.wordCount i)) ∧
    (t.mode = .halted → i = .halt ∧ t.cur = none ∧ t.dp = s.dp) ∧
    (t.mode = .faulted → t.cur = none ∧ t.dp = s.dp)

/-! ### Frames -/

/-- What no operation of the sequencer writes. -/
def Sys2Proof.Claims.keepsEngineAndMemory (s t : State) : Prop :=
  t.params = s.params ∧ (∀ a, t.dmem.read a = s.dmem.read a) ∧ (∀ a, t.pmem.read a = s.pmem.read a) ∧
    t.dmem = s.dmem ∧ t.pmem = s.pmem ∧ t.shifter = s.shifter ∧ t.cs = s.cs ∧ t.wire = s.wire ∧
    t.schedule = s.schedule ∧ t.policy = s.policy ∧ t.draws = s.draws

/-- The fault registers change only where the step enters FAULTED. -/
def Sys2Proof.Claims.keepsFault (s t : State) : Prop :=
  (t.fault = s.fault ∧ t.faultDp = s.faultDp ∧ t.mode = s.mode) ∨
    (s.mode = .run ∧ t.mode = .faulted ∧ t.faultDp = BitVec.ofNat 32 s.dp)

/-- SENDB, SENDW, SETWIN, FILL and BLIT: they write the queue (by one frame at a SUBMIT), `tcf` (cleared at a CLEAR_TCF, which
SETWIN has none of), `cur`, `dp`, and at a fault the fault registers and the mode; nothing else. -/
def Obligations.BusOperationFrame : Prop :=
  ∀ (s t : State) (i : Instr), Claims.busOperation i = true → exec i s = .next t →
    Claims.keepsEngineAndMemory s t ∧ Claims.keepsFault s t ∧
    t.tokCmd = s.tokCmd ∧ t.tokData = s.tokData ∧ t.linesLocked = s.linesLocked ∧ t.linesValid = s.linesValid ∧
    t.owner = s.owner ∧ t.busCfg = s.busCfg ∧ t.savedCfg = s.savedCfg ∧
    (t.txq = s.txq ∧ t.fromRun = s.fromRun ∨
      ∃ sel src f, s.curUop = some (.submit sel src f.last) ∧ f.tok = Claims.token s sel ∧ t.txq = s.txq ++ [f] ∧
        t.fromRun = s.fromRun ++ [Claims.runOperation i]) ∧
    (t.tcf = s.tcf ∨ s.curUop = some .clearTcf ∧ t.tcf = false) ∧
    (∀ x0 y0 x1 y1, i = .setwin x0 y0 x1 y1 → t.tcf = s.tcf)

/-- SESSBEG and SESSEND write `owner`, `bus_cfg` and (SESSBEG) `saved_cfg`; INITLN writes the tokens and the line flags; HALT
writes the mode; each also `cur`, `dp`, and at a fault the fault registers and the mode; nothing else. -/
def Obligations.SystemOperationFrame : Prop :=
  ∀ (s t : State) (i : Instr), Claims.busOperation i = false → exec i s = .next t →
    Claims.keepsEngineAndMemory s t ∧ t.txq = s.txq ∧ t.fromRun = s.fromRun ∧ t.tcf = s.tcf ∧
    (i ≠ .halt → Claims.keepsFault s t) ∧
    (i = .halt → Claims.keepsFault s t ∨
      (s.mode = .run ∧ t.mode = .halted ∧ t.fault = s.fault ∧ t.faultDp = s.faultDp)) ∧
    (i ≠ .sessbeg → i ≠ .sessend → t.owner = s.owner ∧ t.busCfg = s.busCfg) ∧
    (i ≠ .sessbeg → t.savedCfg = s.savedCfg) ∧
    (i = .sessbeg ∨ i = .sessend ∨ i = .halt →
      t.tokCmd = s.tokCmd ∧ t.tokData = s.tokData ∧ t.linesLocked = s.linesLocked ∧ t.linesValid = s.linesValid)

/-! ### Faults -/

/-- 60 R200, R201: a step that enters FAULTED is the sequencer's, and it writes exactly the fault entry, with a code from 1 to
14. That `fault_dp` holds the low 32 bits of a `dp` of 2^32 is the model's choice (log 5). -/
def Obligations.FaultEntryIsTheSequencers : Prop :=
  ∀ s t : State, step s = .next t → s.mode ≠ .faulted → t.mode = .faulted →
    nextMove s = some .sequencer ∧ ∃ c, 1 ≤ c ∧ c ≤ 14 ∧ t = Claims.faulted c (useMove s)

/-- 10 R22, R24; 60 R204: HALTED and FAULTED are left only by reset; the fault registers, `dp` and `cur` keep their values, and
only the engine and the bus's other consumers act. -/
def Obligations.StoppedBlockStaysStopped : Prop :=
  ∀ s t : State, step s = .next t → s.mode ≠ .run → Claims.goesOnRunning s = true →
    t.mode = s.mode ∧ t.fault = s.fault ∧ t.faultDp = s.faultDp ∧ t.dp = s.dp ∧ t.cur = s.cur ∧
    (t.txq = s.txq ∧ t.shifter = s.shifter ∧ t.wire = s.wire ∨ nextMove s = some .engine) ∧
    (t.owner = s.owner ∨ nextMove s = some .otherAcquire ∨ ∃ cfg tcf, nextMove s = some (.otherRelease cfg tcf))

/-! ### Reset and launch -/

/-- 10 R37: the state after reset, each component at the table's value under the parameters in force. That State.reset lists
nothing in DMEM and PMEM, starts with owner NONE and holds Params.default is the model's choice (log 2, 7, 11). -/
def Obligations.ResetHasTheTablesValues : Prop :=
  State.reset.mode = .run ∧ State.reset.dp = State.reset.params.launchDp ∧ State.reset.cur = none ∧
  State.reset.fault = 0 ∧ State.reset.faultDp = 0 ∧
  State.reset.tokCmd = State.reset.params.sentinel ∧ State.reset.tokData = State.reset.params.sentinel ∧
  State.reset.linesLocked = false ∧ State.reset.linesValid = false ∧ State.reset.owner = .none ∧
  State.reset.busCfg = State.reset.params.initBusCfg ∧ State.reset.savedCfg = none ∧ State.reset.txq = [] ∧
  State.reset.shifter = none ∧ State.reset.tcf = false ∧ State.reset.cs = false ∧ State.reset.wire = [] ∧
  State.reset.fromRun = [] ∧
  State.reset.params.wf = true

/-- 70 R230, 10 R37: a reset, in every mode, puts every component at its reset value, with the launch's owner, and keeps the
memories; a launch also loads them. The load from address 0 on is the model's choice (log 17). -/
def Obligations.RestartGivesTheResetValues : Prop :=
  ∀ s : State,
    (∀ other, nextMove s = some (.reset other) →
      step s = .next
        { useMove s with
          mode := .run, dp := s.params.launchDp, cur := none, fault := 0, faultDp := 0, tokCmd := s.params.sentinel,
          tokData := s.params.sentinel, linesLocked := false, linesValid := false,
          owner := if other then .other else .none, busCfg := s.params.initBusCfg, savedCfg := none, txq := [],
          shifter := none, tcf := false, cs := false, wire := [], fromRun := [] }) ∧
    (∀ other program pixels, nextMove s = some (.launch other program pixels) →
      ∃ dmem pmem,
        step s = .next
          { useMove s with
            dmem := dmem, pmem := pmem, mode := .run, dp := s.params.launchDp, cur := none, fault := 0, faultDp := 0,
            tokCmd := s.params.sentinel, tokData := s.params.sentinel, linesLocked := false, linesValid := false,
            owner := if other then .other else .none, busCfg := s.params.initBusCfg, savedCfg := none, txq := [],
            shifter := none, tcf := false, cs := false, wire := [], fromRun := [] } ∧
        (∀ a, a < s.params.dmemWords → dmem.read a = program.getD a 0) ∧
        (∀ a, a < s.params.pmemSize → pmem.read a = pixels.getD a 0))

/-! ### The engine and the host -/

/-- 40 R112, R113: START and FINISH, in every mode and under every owner. That a move of an engine with nothing to do answers the
unchanged state is the model's choice (log 14): the spec has no such step. -/
def Obligations.EngineStartsAndFinishes : Prop :=
  ∀ s : State, nextMove s = some .engine →
    (∀ f rest, s.shifter = none → s.txq = f :: rest →
      step s = .next { useMove s with shifter := some f, txq := rest, cs := true }) ∧
    (∀ f, s.shifter = some f →
      step s = .next
        { useMove s with
          wire := s.wire ++ [⟨f, s.busCfg⟩],
          tcf := if s.params.tcfMode = .eachFrame ∨ f.last = true then true else s.tcf,
          cs := if f.last = true then false else s.cs,
          shifter := none }) ∧
    (s.shifter = none → s.txq = [] → step s = .next (useMove s))

/-- 43 R166, R167: OTHER_ACQUIRE takes a free bus, OTHER_RELEASE gives it back with any configuration and any flag, and neither
touches anything else; where not enabled they change nothing (the model's choice, log 14). -/
def Obligations.OtherConsumersTakeAndGive : Prop :=
  ∀ s : State,
    (nextMove s = some .otherAcquire →
      step s = .next (if s.owner = .none then { useMove s with owner := .other } else useMove s)) ∧
    (∀ cfg tcf, nextMove s = some (.otherRelease cfg tcf) →
      step s = .next (if s.owner = .other then { useMove s with owner := .none, busCfg := cfg, tcf := tcf } else useMove s))

/-- 20 R57: the wire log is append-only, and its only writer is the engine's FINISH, which appends exactly one wire frame. A
reset starts the log again. -/
def Obligations.WireIsAppendOnly : Prop :=
  ∀ s t : State, step s = .next t → Claims.goesOnRunning s = true →
    t.wire = s.wire ∨
    ∃ f, nextMove s = some .engine ∧ s.shifter = some f ∧ t.wire = s.wire ++ [⟨f, s.busCfg⟩]

/-- 20 R69, 70 R230, R238: no step writes DMEM or PMEM but the host's launch, so every run meets MemFrozen, and the host may not
store to them before the run is final. The parameters never change. That a host store is refused in every state that is not final is
the model's reading of 70 R238 (log 22), and that a launch loads at the restart is log 17. -/
def Obligations.MemoriesAreNeverWritten : Prop :=
  (∀ s t : State, step s = .next t →
    t.params = s.params ∧
    ((∃ other program pixels, nextMove s = some (.launch other program pixels)) ∨ t.dmem = s.dmem ∧ t.pmem = s.pmem)) ∧
  (∀ r : Nat → State, IsRun r → MemFrozen r) ∧
  (∀ s : State, s.final = false →
    (∀ a w, hostStoreDmem a w s = .refused .memoryFrozen) ∧ ∀ a v, hostStorePmem a v s = .refused .memoryFrozen)

/-- 20 R60: the frames on the wire, then the one shifting, then the queue, form one sequence, which a step leaves alone or, at a
SUBMIT of the sequencer, extends by one frame at its end: wire order is SUBMIT order. The model's own note of which frames a pixel run
submitted (log 28) grows with that sequence. -/
def Obligations.SubmitOrderIsWireOrder : Prop :=
  ∀ s t : State, step s = .next t → Claims.goesOnRunning s = true →
    t.wire.map WireFrame.frame ++ t.outstanding = s.wire.map WireFrame.frame ++ s.outstanding ∧ t.fromRun = s.fromRun ∨
    ∃ a sel src f, nextMove s = some .sequencer ∧ s.cur = some a ∧ s.curUop = some (.submit sel src f.last) ∧
      t.wire.map WireFrame.frame ++ t.outstanding = s.wire.map WireFrame.frame ++ s.outstanding ++ [f] ∧
      t.fromRun = s.fromRun ++ [Claims.runOperation a.op]

/-- 10 R27: `owner` changes only by ACQUIRE, RELEASE, OTHER_ACQUIRE and OTHER_RELEASE, and a reset. -/
def Obligations.OwnerChangesOnlyByTheArbiter : Prop :=
  ∀ s t : State, step s = .next t → Claims.goesOnRunning s = true →
    t.owner = s.owner ∨
    (s.owner = .none ∧ t.owner = .self ∧ nextMove s = some .sequencer ∧ s.curUop = some .acquire) ∨
    (t.owner = .none ∧ nextMove s = some .sequencer ∧ s.curUop = some .release) ∨
    (s.owner = .none ∧ t.owner = .other ∧ nextMove s = some .otherAcquire) ∨
    (s.owner = .other ∧ t.owner = .none ∧ ∃ cfg tcf, nextMove s = some (.otherRelease cfg tcf))

/-- 10 R25, R26; 43 R163: once INITLN has executed, whatever its outcome, no step changes the tokens or the line flags until
reset. -/
def Obligations.LineTokensAreWrittenOnce : Prop :=
  ∀ s t : State, s.Inv → s.linesLocked = true → step s = .next t → Claims.goesOnRunning s = true →
    t.tokCmd = s.tokCmd ∧ t.tokData = s.tokData ∧ t.linesLocked = true ∧ t.linesValid = s.linesValid

/-- 10 R32, R33; 40 R113, R114: `cs` rises at a START and falls only at the FINISH of a LAST-tagged frame; `tcf` rises at a
FINISH, falls at a CLEAR_TCF, and otherwise changes only by another consumer's release. -/
def Obligations.FlagsChangeOnlyByTheirRules : Prop :=
  ∀ s t : State, step s = .next t → Claims.goesOnRunning s = true →
    (s.cs = false → t.cs = true → nextMove s = some .engine ∧ s.shifter = none ∧ s.txq ≠ []) ∧
    (s.cs = true → t.cs = false → nextMove s = some .engine ∧ ∃ f, s.shifter = some f ∧ f.last = true) ∧
    (s.tcf = false → t.tcf = true →
      (∃ f, nextMove s = some .engine ∧ s.shifter = some f ∧ (s.params.tcfMode = .eachFrame ∨ f.last = true)) ∨
      ∃ cfg tcf, nextMove s = some (.otherRelease cfg tcf)) ∧
    (s.tcf = true → t.tcf = false →
      (nextMove s = some .sequencer ∧ s.curUop = some .clearTcf) ∨
      ∃ cfg tcf, nextMove s = some (.otherRelease cfg tcf))

/-! ### Invariants -/

/-- The two invariants hold at State.reset. -/
def Obligations.InvariantsHoldAtReset : Prop :=
  State.reset.Inv ∧ State.reset.handshakeOk = true

/-- 10 R21, R23, R29; 43 R159 to R165; 60 R201: every step keeps the invariant of the block: canonical memories, the level
within the queue, quiescence outside a session, the session's configuration inside one, the tokens' discipline, a legal fault
register, `dp` inside DMEM, an operation in progress whose checks hold. -/
def Obligations.InvIsKeptByEveryStep : Prop :=
  ∀ s t : State, s.params.wf = true → s.Inv → step s = .next t → t.Inv

/-- 40 R110, R115: under TAGGED every step keeps the handshake invariant: there is room at every SUBMIT, and the wait of a LAST
unit waits for exactly its own frame. -/
def Obligations.HandshakeIsKeptByEveryStep : Prop :=
  ∀ s t : State, s.params.wf = true → s.params.tcfMode = .tagged → s.Inv → s.handshakeOk = true → step s = .next t →
    t.handshakeOk = true

/-- 40 R110: under `FULL_THRESHOLD < FIFO_DEPTH` and TAGGED, every SUBMIT finds the level at or below the threshold, and
QueueOverflow (code 12) is never raised. -/
def Obligations.QueueNeverOverflows : Prop :=
  ∀ s : State, s.params.fullThreshold < s.params.fifoDepth → s.params.tcfMode = .tagged → s.Inv → s.handshakeOk = true →
    (∀ sel src last, s.curUop = some (.submit sel src last) → s.txq.length ≤ s.params.fullThreshold) ∧
    ∀ t, step s = .next t → t.fault = 12 → s.fault = 12

/-- 40 R115: under TAGGED, when the final WAIT_TCF of a LAST unit is passed, the frame the unit submitted has finished and is the
last entry of the wire, the queue is empty, the shifter is idle and chip select is deasserted. -/
def Obligations.LastFramingIsABarrier : Prop :=
  ∀ (s t : State) (i : Instr) (k : Nat), s.params.tcfMode = .tagged → s.Inv → s.handshakeOk = true → Claims.atUop i k s →
    uopAt s.params i k = some .waitTcf → exec i s = .next t → t.cur = none →
    (∃ f, taggedFrame s i = some f ∧ f.last = true ∧ t.wire.getLast? = some ⟨f, s.params.sessionCfg⟩) ∧
    t.txq = [] ∧ t.shifter = none ∧ t.cs = false ∧ t.tcf = true

/-- 40 R116: under EACH_FRAME a LAST-framed SENDB can retire with its own frame still in the queue: the FINISH of an earlier
CONTINUE frame sets the flag; under TAGGED it does not, and SENDB holds: that its step then answers the unchanged state is the
model's choice (log 14). -/
def Obligations.EachFrameBreaksTheBarrier : Prop :=
  ∀ (s : State) (sel : LineSel) (v : Byte) (g f : Frame), Claims.atUop (.sendb sel .last v) 2 s → s.tcf = false →
    s.shifter = some g → g.last = false → s.txq = [f] → nextMove s = some .engine →
    (s.params.tcfMode = .eachFrame →
      ∃ t, step s = .next t ∧ t.tcf = true ∧ exec (.sendb sel .last v) t = .next (Claims.retires 1 t) ∧ t.txq = [f]) ∧
    (s.params.tcfMode = .tagged →
      ∃ t, step s = .next t ∧ t.tcf = false ∧ exec (.sendb sel .last v) t = .next t)

/-- 43 R160, 20 R52, 10 R23, R28: from a state with the invariant every step answers a next state, the model's stops are not met,
and PortNotIdle (code 13) is not raised. -/
def Obligations.StepNeverStops : Prop :=
  ∀ s : State, s.params.wf = true → s.Inv → ∃ t, step s = .next t ∧ (t.fault = 13 → s.fault = 13)

/-- 70 R233, 43 R165: a halted state is final, and it stays final with the same wire until a reset. -/
def Obligations.HaltedIsFinal : Prop :=
  ∀ s : State, s.params.wf = true → s.Inv → s.mode = .halted →
    s.final = true ∧ ∀ t, step s = .next t → Claims.goesOnRunning s = true → t.final = true ∧ t.wire = s.wire

/-- 40 R114, 41 R135, 70 R234: while no outstanding frame is tagged LAST, no step makes a port that is not quiescent quiescent;
so a session whose last bus operation was CONTINUE-framed cannot be ended without a fault. -/
def Obligations.OnlyATaggedFinishQuietsThePort : Prop :=
  ∀ s t : State, s.Inv → s.quiescent = false → noneTagged s.outstanding = true → step s = .next t →
    Claims.goesOnRunning s = true → t.quiescent = false

/-- 41 R131, R135: from the first SUBMIT of a SETWIN on, the port is not quiescent and nothing tagged is outstanding; so a SESSEND
right after it always finds the port busy. -/
def Sys2Proof.Claims.setwinBusy (s : State) : Prop :=
  ∀ x0 y0 x1 y1 k, s.cur = some ⟨.setwin x0 y0 x1 y1, k⟩ → 1 ≤ k → s.quiescent = false ∧ noneTagged s.outstanding = true

/-- 41 R135: every step keeps a SETWIN's port busy, and SETWIN retires with the port busy and nothing tagged outstanding. -/
def Obligations.SetwinLeavesThePortBusy : Prop :=
  ∀ s t : State, s.params.wf = true → s.params.tcfMode = .tagged → s.Inv → s.handshakeOk = true → Claims.setwinBusy s →
    (step s = .next t → Claims.setwinBusy t) ∧
    ∀ x0 y0 x1 y1, Claims.atUop (.setwin x0 y0 x1 y1) 13 s → exec (.setwin x0 y0 x1 y1) s = .next t → t.cur = none →
      t.quiescent = false ∧ noneTagged t.outstanding = true

/-- 40 R100, R119; 70 R240: a hold has no end of its own: a waiting micro-operation of the port keeps holding through every step
but the engine's, and a waiting ACQUIRE through every step but another consumer's release. And it may last for ever (43 R169):
where only the sequencer ever moves, the endless hold is a run, not fair to an engine that has a step, and without the release an
ACQUIRE waits for. That the held state is repeated step by step is the model's form of a hang (log 8, 14), and that it is a proper
run is by the model's notion of one (log 30). -/
def Obligations.OnlyAnotherAgentLiftsAHold : Prop :=
  (∀ s t : State, s.Inv → s.mode = .run → s.sequencerEnabled = false → step s = .next t → Claims.goesOnRunning s = true →
    (s.curUop ≠ some .acquire → nextMove s ≠ some .engine → t.cur = s.cur ∧ t.sequencerEnabled = false) ∧
    (s.curUop = some .acquire → (∀ cfg tcf, nextMove s ≠ some (.otherRelease cfg tcf)) →
      t.cur = s.cur ∧ t.sequencerEnabled = false)) ∧
  (∀ s : State, s.mode = .run → s.sequencerEnabled = false → s.schedule = [] → s.policy = .repeated [.sequencer] →
    ProperRun (fun _ => s) ∧ NoRestart (fun _ => s) ∧
    (s.engineEnabled = true → ¬EngineFair fun _ => s) ∧
    (s.curUop = some .acquire → ¬OthersRelease fun _ => s))

/-! ### Whole operations -/

/-- The frames a LAST-framed operation submits, the last one tagged (40 R101, 42 R144). -/
def Sys2Proof.Claims.lastFrames (s : State) : Instr → Option (List Frame)
  | .sendb sel .last v => some [⟨Claims.token s sel, .byte v, true⟩]
  | .sendw sel .last v => some [⟨Claims.token s sel, .half v, true⟩]
  | .fill color count =>
    some (List.replicate (count.toNat - 1) ⟨s.tokData, .half color, false⟩ ++ [⟨s.tokData, .half color, true⟩])
  | .blit base count =>
    some ((List.range (count.toNat - 1)).map (fun n => ⟨s.tokData, .half (s.pmem.read (base.toNat + n)), false⟩) ++
      [⟨s.tokData, .half (s.pmem.read (base.toNat + (count.toNat - 1))), true⟩])
  | _ => none

/-- 40 R102, R103, R115; 42 R140, R141, R144: under TAGGED, in a session and under the eager policy, a LAST-framed SENDB or
SENDW, a FILL or a BLIT whose checks pass runs to its retirement: after some number of steps the wire has grown by exactly the
frames outstanding before it and then its own frames in order, `dp` stands after it, the port is quiescent and the completion
flag is set, and nothing else has changed but the model's note of which frames a run submitted (log 28). That the agents move in the eager order is the model's choice (log 9). -/
def Obligations.LastFramedOperationsDrainToTheWire : Prop :=
  ∀ (s : State) (i : Instr) (rest : List Word) (frames : List Frame), s.params.wf = true → s.params.tcfMode = .tagged →
    s.Inv → s.handshakeOk = true → Claims.between s → s.schedule = [] → s.policy = .eager →
    s.owner = .self →
    decode (fetchWords s) = .ok i rest → staticCheck i s = none → Claims.lastFrames s i = some frames →
    ∃ n, Host.Core.run Sys2Proof.core n s = .next
      { s with
        dp := s.dp + Claims.wordCount i, txq := [], shifter := none, tcf := true, cs := false,
        wire := s.wire ++ (s.outstanding ++ frames).map fun f => ⟨f, s.busCfg⟩,
        fromRun := s.fromRun ++ List.replicate frames.length (Claims.runOperation i) }

/-- 40 R119, 70 R240: under the premise EngineFair, and with no reset, every wait on the port ends: the waiting operation is
still in progress at a later state of the run in which its wait passes. The runs are those of every schedule and policy (log 8); under
the eager policy the engine is never passed over for ever, so there the premise holds of itself (log 9). And with OthersRelease
beside it every run ends: the sequencer halts or faults. That a run does not pass over an enabled sequencer for ever is the model's
notion of a run (log 30). -/
def Obligations.PortWaitsEndUnderEngineFair : Prop :=
  (∀ (r : Nat → State) (n : Nat), IsRun r → NoRestart r → EngineFair r → (r n).params.wf = true →
    (r n).params.tcfMode = .tagged → (r n).Inv → (r n).handshakeOk = true →
    ((r n).curUop = some .waitLe ∨ (r n).curUop = some .waitEmpty ∨ (r n).curUop = some .waitTcf) →
    ∃ m, n ≤ m ∧ (r m).cur = (r n).cur ∧ (r m).sequencerEnabled = true) ∧
  (∀ (r : Nat → State) (n : Nat), ProperRun r → NoRestart r → EngineFair r → OthersRelease r → (r n).params.wf = true →
    (r n).params.tcfMode = .tagged → (r n).Inv → (r n).handshakeOk = true →
    ∃ m, n ≤ m ∧ (r m).mode ≠ .run)

/-! ### Noninterference -/

/-- 10 R32, 43 R167: outside a WAIT_TCF the completion flag found in the state influences nothing but the flag itself. -/
def Obligations.CompletionFlagInfluencesOnlyItsWait : Prop :=
  ∀ (s t : State) (b : Bool), s.curUop ≠ some .waitTcf → step s = .next t →
    ∃ b', step { s with tcf := b } = .next { t with tcf := b' }

/-- A state with every bus configuration value in it forgotten. -/
def Sys2Proof.Claims.forgetCfg (s : State) : State :=
  { s with
    busCfg := ⟨0⟩, savedCfg := s.savedCfg.map fun _ => ⟨0⟩, wire := s.wire.map fun f => ⟨f.frame, ⟨0⟩⟩ }

/-- 43 R167; 00 R7 (BusCfg is opaque): the bus configuration values found in the state never influence what the block does;
they go only into `saved_cfg`, back into `bus_cfg` and into the stamps of the wire log. -/
def Obligations.BusConfigurationInfluencesNothing : Prop :=
  ∀ s₁ s₂ t₁ : State, Claims.forgetCfg s₁ = Claims.forgetCfg s₂ → step s₁ = .next t₁ →
    ∃ t₂, step s₂ = .next t₂ ∧ Claims.forgetCfg t₁ = Claims.forgetCfg t₂

/-! ### What the host and the controller see -/

/-- 10 R35, R36: the five status registers, field by field, their values after a reset, the reserved registers and the refused
writes. -/
def Obligations.StatusRegistersShowTheState : Prop :=
  ∀ s : State,
    (∃ w, readStatus 0 s = .ok w ∧
      w.extractLsb' 0 2 = (match s.mode with | .run => 0 | .halted => 1 | .faulted => 2) ∧
      w.getLsbD 2 = decide (s.owner = .self) ∧ w.getLsbD 3 = s.tcf ∧ w.getLsbD 4 = s.shifter.isSome ∧ w.getLsbD 5 = s.cs ∧
      w.getLsbD 6 = s.linesLocked ∧ w.getLsbD 7 = s.linesValid ∧
      (s.txq.length ≤ 255 → (w.extractLsb' 8 8).toNat = s.txq.length) ∧
      w.extractLsb' 16 2 = (match s.owner with | .none => 0 | .self => 1 | .other => 2) ∧ w.extractLsb' 18 14 = 0) ∧
    (∃ w, readStatus 1 s = .ok w ∧ w.extractLsb' 0 8 = s.fault ∧ w.extractLsb' 8 24 = 0) ∧
    readStatus 2 s = .ok s.faultDp ∧
    (∃ w, readStatus 3 s = .ok w ∧ (s.dp < 2 ^ 32 → w.toNat = s.dp)) ∧
    (∃ w, readStatus 4 s = .ok w ∧ w.extractLsb' 0 16 = s.tokCmd ∧ w.extractLsb' 16 16 = s.tokData) ∧
    (∀ n, 5 ≤ n → readStatus n s = .error (.statusReserved n)) ∧
    (∀ n v, writeStatus n v s = .refused (.statusWrite n)) ∧
    ∀ other, readStatus 0 (s.afterReset other) = .ok (if other then 0x00020000 else 0) ∧
      readStatus 1 (s.afterReset other) = .ok 0 ∧ readStatus 2 (s.afterReset other) = .ok 0 ∧
      readStatus 3 (s.afterReset other) = .ok (BitVec.ofNat 32 s.params.launchDp) ∧
      ∃ w, readStatus 4 (s.afterReset other) = .ok w ∧ w.extractLsb' 0 16 = s.params.sentinel ∧
        w.extractLsb' 16 16 = s.params.sentinel

/-- 20 R55, R62, R63; 43 R164: the wire sends a 16-bit frame high byte first and each byte most significant bit first; the
controller receives the bytes of the delivered frames in wire order, each with its kind; with `lines_valid = 0` it receives
nothing and knows nothing. -/
def Obligations.ControllerReceivesTheDeliveredBytes : Prop :=
  (∀ v : Half, Payload.bytes (.half v) = [v.extractLsb' 8 8, v.extractLsb' 0 8]) ∧
  (∀ v : Byte, Payload.bytes (.byte v) = [v]) ∧
  (∀ (v : Byte) (n : Nat), n < 8 → (sentBits v)[n]? = some (v.getLsbD (7 - n))) ∧
  (∀ (s : State) (front : List WireFrame) (f : WireFrame), s.wire = front ++ [f] →
    controllerBytes s = controllerBytes { s with wire := front } ++
      (if s.linesValid = true ∧ s.tokCmd ≠ s.tokData ∧ f.frame.tok = s.tokCmd then
        f.frame.val.bytes.map fun b => (LineSel.cmd, b)
      else if s.linesValid = true ∧ s.tokCmd ≠ s.tokData ∧ f.frame.tok = s.tokData then
        f.frame.val.bytes.map fun b => (LineSel.data, b)
      else [])) ∧
  (∀ s : State, s.linesValid = false →
    controllerBytes s = [] ∧ ∀ x y, (controllerView s).cell s.params x y = none)

/-- 20 R64 to R66, 42 R147: a SETWIN with a window inside the frame memory, followed by no more pixels than its capacity, sets
the window's cells in raster order, leaves every other cell as the view had it, and leaves the window open exactly while fewer
pixels than its capacity have arrived. The pixels may be a run's or not; that the seven frames are no run's is a premise on the
model's own note (log 28), as at every SETWIN's SUBMIT. -/
def Obligations.PixelsFillTheWindowInRasterOrder : Prop :=
  ∀ (s : State) (front : List WireFrame) (x0 y0 x1 y1 : Half) (run : List (Half × Bool)),
    s.linesValid = true → s.tokCmd ≠ s.tokData →
    s.params.cmdColset ≠ s.params.cmdRowset → s.params.cmdColset ≠ s.params.cmdMemwrite →
    s.params.cmdRowset ≠ s.params.cmdMemwrite →
    x0.toNat ≤ x1.toNat → x1.toNat < s.params.ctrlW → y0.toNat ≤ y1.toNat → y1.toNat < s.params.ctrlH →
    (∀ k, k < 7 → s.fromRun.getD (front.length + k) false = false) →
    (controllerView { s with wire := front }).lost = false → (controllerView { s with wire := front }).half = none →
    run.length ≤ (x1.toNat - x0.toNat + 1) * (y1.toNat - y0.toNat + 1) →
    s.wire.map WireFrame.frame = front.map WireFrame.frame ++ Claims.setwinFrames s x0 y0 x1 y1 ++
      run.map (fun p => ⟨s.tokData, .half p.1, p.2⟩) →
    (∀ j p, run[j]? = some p →
      (controllerView s).cell s.params (x0.toNat + j % (x1.toNat - x0.toNat + 1))
        (y0.toNat + j / (x1.toNat - x0.toNat + 1)) = some p.1) ∧
    (∀ x y, (∀ j, j < run.length → ¬(x = x0.toNat + j % (x1.toNat - x0.toNat + 1) ∧
        y = y0.toNat + j / (x1.toNat - x0.toNat + 1))) →
      (controllerView s).cell s.params x y = (controllerView { s with wire := front }).cell s.params x y) ∧
    ((controllerView s).isOpen = true ↔ run.length < (x1.toNat - x0.toNat + 1) * (y1.toNat - y0.toNat + 1))

/-- 20 R65, R67: the frame memory is lost for good by pixel data outside an open, known, ordered and in-range window, and by a
pixel's odd first byte before a command; any other command makes every cell unknown. A frame of a FILL or a BLIT loses it where no
window is open, whatever the command in force (42 R147), and a frame of another operation does what its bytes do and no more. The
model's choices are that the odd byte of 20 R67 is a pixel's only and not another command's parameter (log 27), that data before any
command loses the memory too (log 20), and that the model notes which frames a run sent (log 28). -/
def Obligations.FrameMemoryIsLostOutsideTheWindow : Prop :=
  ∀ (p : Params) (v : View),
    (∀ kb, v.lost = true → (v.receive p kb).lost = true) ∧
    (∀ x y, v.lost = true → v.cell p x y = none) ∧
    (∀ b, v.command = some p.cmdMemwrite → v.isOpen = false → (v.receive p (.data, b)).lost = true) ∧
    (∀ b, v.command = some p.cmdMemwrite → p.cmdMemwrite ≠ p.cmdColset → p.cmdMemwrite ≠ p.cmdRowset →
      v.bounds p = none → (v.receive p (.data, b)).lost = true) ∧
    (∀ c, v.half ≠ none → (v.receive p (.cmd, c)).lost = true) ∧
    (∀ b, v.command = none → (v.receive p (.data, b)).lost = true) ∧
    (∀ c x y, c ≠ p.cmdColset → c ≠ p.cmdRowset → c ≠ p.cmdMemwrite → (v.receive p (.cmd, c)).cell p x y = none) ∧
    (∀ c, c ≠ p.cmdMemwrite → (v.receive p (.cmd, c)).isOpen = false) ∧
    (∀ sel f, v.isOpen = false → (v.receiveFrame p sel true f).lost = true) ∧
    (∀ sel f, v.receiveFrame p sel false f = (f.val.bytes.map fun b => (sel, b)).foldl (View.receive p) v)

/-- 30 R91: the pseudo-instructions and what they are refused for. -/
def Obligations.PseudoInstructionsExpand : Prop :=
  (∀ c : Byte, assemble .wrcmd [.num c.toNat] = some [.sendb .cmd .cont c]) ∧
  (∀ c : Byte, assemble .wrcmdl [.num c.toNat] = some [.sendb .cmd .last c]) ∧
  (∀ d : Byte, assemble .wrdata8 [.num d.toNat] = some [.sendb .data .cont d]) ∧
  (∀ d : Byte, assemble .wrdata8l [.num d.toNat] = some [.sendb .data .last d]) ∧
  (∀ d : Half, assemble .wrdata16 [.num d.toNat] = some [.sendw .data .cont d]) ∧
  (∀ d : Half, assemble .wrdata16l [.num d.toNat] = some [.sendw .data .last d]) ∧
  (∀ c : Byte, assemble .cmdargs [.num c.toNat] = some [.sendb .cmd .last c]) ∧
  (∀ (c : Byte) (front : List Byte) (a : Byte),
    assemble .cmdargs (.num c.toNat :: (front ++ [a]).map fun b => .num b.toNat) =
      some (.sendb .cmd .cont c :: front.map (fun b => .sendb .data .cont b) ++ [.sendb .data .last a])) ∧
  (∀ x y c : Half, assemble .pixel [.num x.toNat, .num y.toNat, .num c.toNat] = some [.setwin x y x y, .fill c 1]) ∧
  (∀ (x y w : Nat) (c : Half), y < 2 ^ 16 →
    assemble .hrun [.num x, .num y, .num w, .num c.toNat] =
      if w = 0 ∨ x + w - 1 > 0xFFFF then none
      else some [.setwin (BitVec.ofNat 16 x) (BitVec.ofNat 16 y) (BitVec.ofNat 16 (x + w - 1)) (BitVec.ofNat 16 y),
        .fill c (BitVec.ofNat 32 w)]) ∧
  (∀ (x y h : Nat) (c : Half), x < 2 ^ 16 →
    assemble .vrun [.num x, .num y, .num h, .num c.toNat] =
      if h = 0 ∨ y + h - 1 > 0xFFFF then none
      else some [.setwin (BitVec.ofNat 16 x) (BitVec.ofNat 16 y) (BitVec.ofNat 16 x) (BitVec.ofNat 16 (y + h - 1)),
        .fill c (BitVec.ofNat 32 h)]) ∧
  (∀ (x y w h : Nat) (c : Half),
    assemble .rect [.num x, .num y, .num w, .num h, .num c.toNat] =
      if w = 0 ∨ h = 0 ∨ x + w - 1 > 0xFFFF ∨ y + h - 1 > 0xFFFF ∨ w * h ≥ 2 ^ 32 then none
      else some [.sessbeg,
        .setwin (BitVec.ofNat 16 x) (BitVec.ofNat 16 y) (BitVec.ofNat 16 (x + w - 1)) (BitVec.ofNat 16 (y + h - 1)),
        .fill c (BitVec.ofNat 32 (w * h)), .sessend])
end

