-- ==== Sys2Proof/Laws/Decode.lean ====
section
/-! SUPPORT. The fields of a header word and of an extra word, read back, and what decoding a legal header gives. -/

namespace Sys2Proof

/-- A bit of a placed field. -/
theorem getLsbD_place {w : Nat} (lo : Nat) (field : BitVec w) (n : Nat) (hn : n < 32) :
    (place lo field).getLsbD n = (decide (lo ≤ n) && field.getLsbD (n - lo)) := by
  by_cases h : lo ≤ n
  · simp [place, hn, h, show ¬ n < lo by omega]
  · simp [place, hn, h, show n < lo by omega]

theorem opField_headerWord (imm : Half) (f s : BitVec 1) (op : Op) : opField (headerWord imm f s op) = op.field := by
  unfold opField headerWord
  ext i hi
  simp only [BitVec.getElem_extractLsb', Nat.zero_add, BitVec.getLsbD_or, getLsbD_place _ _ _ (show i < 32 by omega)]
  simp [show ¬ 16 ≤ i by omega, show ¬ 5 ≤ i by omega, show ¬ 4 ≤ i by omega, hi]

theorem sel_headerWord (imm : Half) (f s : BitVec 1) (op : Op) :
    (headerWord imm f s op).getLsbD 4 = s.getLsbD 0 := by
  simp [headerWord, place]

theorem frm_headerWord (imm : Half) (f s : BitVec 1) (op : Op) :
    (headerWord imm f s op).getLsbD 5 = f.getLsbD 0 := by
  simp [headerWord, place]

theorem highHalf_headerWord (imm : Half) (f s : BitVec 1) (op : Op) : highHalf (headerWord imm f s op) = imm := by
  unfold highHalf headerWord
  ext i hi
  simp only [BitVec.getElem_extractLsb', BitVec.getLsbD_or, getLsbD_place _ _ _ (show 16 + i < 32 by omega)]
  rw [BitVec.getLsbD_of_ge f _ (by omega), BitVec.getLsbD_of_ge s _ (by omega), BitVec.getLsbD_of_ge op.field _ (by omega)]
  simp [hi]

/-- The reserved bits [15:6] of a header word are zero. -/
theorem reserved_headerWord (imm : Half) (f s : BitVec 1) (op : Op) (n : Nat) (h6 : 6 ≤ n) (h16 : n < 16) :
    (headerWord imm f s op).getLsbD n = false := by
  unfold headerWord
  simp only [BitVec.getLsbD_or, getLsbD_place _ _ _ (show n < 32 by omega)]
  rw [BitVec.getLsbD_of_ge f _ (by omega), BitVec.getLsbD_of_ge s _ (by omega), BitVec.getLsbD_of_ge op.field _ (by omega)]
  simp [show ¬ 16 ≤ n by omega]

/-- The IMM16 bits of a header word. -/
theorem imm_headerWord (imm : Half) (f s : BitVec 1) (op : Op) (n : Nat) (h16 : 16 ≤ n) (h32 : n < 32) :
    (headerWord imm f s op).getLsbD n = imm.getLsbD (n - 16) := by
  unfold headerWord
  simp only [BitVec.getLsbD_or, getLsbD_place _ _ _ h32]
  rw [BitVec.getLsbD_of_ge f _ (by omega), BitVec.getLsbD_of_ge s _ (by omega), BitVec.getLsbD_of_ge op.field _ (by omega)]
  simp [h16]

theorem lowHalf_halvesWord (high low : Half) : lowHalf (halvesWord high low) = low := by
  unfold lowHalf halvesWord
  ext i hi
  simp only [BitVec.getElem_extractLsb', Nat.zero_add, BitVec.getLsbD_or, getLsbD_place _ _ _ (show i < 32 by omega)]
  simp [show ¬ 16 ≤ i by omega, hi]

theorem highHalf_halvesWord (high low : Half) : highHalf (halvesWord high low) = high := by
  unfold highHalf halvesWord
  ext i hi
  simp only [BitVec.getElem_extractLsb', BitVec.getLsbD_or, getLsbD_place _ _ _ (show 16 + i < 32 by omega)]
  rw [BitVec.getLsbD_of_ge low _ (by omega)]
  simp [hi]

theorem halvesWord_halves (w : Word) : halvesWord (highHalf w) (lowHalf w) = w := by
  unfold halvesWord
  ext i hi
  rw [← BitVec.getLsbD_eq_getElem, BitVec.getLsbD_or, getLsbD_place _ _ _ hi, getLsbD_place _ _ _ hi]
  by_cases h : 16 ≤ i
  · simp [highHalf, lowHalf, h, show i - 16 < 16 by omega, show 16 + (i - 16) = i by omega, BitVec.getLsbD_eq_getElem hi]
  · simp [highHalf, lowHalf, h, show i < 16 by omega, BitVec.getLsbD_eq_getElem hi]

theorem Op.ofField_field (op : Op) : Op.ofField op.field = some op := by cases op <;> rfl

/-- An OP field that selects an operation is that operation's. -/
theorem Op.field_of_ofField (c : BitVec 4) (op : Op) (h : Op.ofField c = some op) : op.field = c := by
  revert c
  cases op <;> decide

/-- Decoding a legal header with its words there. -/
theorem decode_legal (w0 : Word) (ws : List Word) (op : Op) (h : Op.ofField (opField w0) = some op)
    (hl : op.words ≤ ws.length + 1) (hr : w0 &&& op.reserved = 0) :
    decode (w0 :: ws) = .ok (operands op w0 (ws.getD 0 0) (ws.getD 1 0)) (ws.drop (op.words - 1)) := by
  simp only [decode, h]
  rw [if_neg (by omega), if_neg (by simp [hr])]

/-- Everything a decode that gives an operation says of its words. -/
theorem decode_ok {ws : List Word} {i : Instr} {rest : List Word} (h : decode ws = .ok i rest) :
    ∃ w0 tail op, ws = w0 :: tail ∧ Op.ofField (opField w0) = some op ∧ op.words ≤ tail.length + 1 ∧
      w0 &&& op.reserved = 0 ∧ i = operands op w0 (tail.getD 0 0) (tail.getD 1 0) ∧ rest = tail.drop (op.words - 1) := by
  cases ws with
  | nil => cases h
  | cons w0 tail =>
    cases ho : Op.ofField (opField w0) with
    | none => simp [decode, ho] at h
    | some op =>
      simp only [decode, ho] at h
      split at h
      · cases h
      · split at h
        · cases h
        · next hl hr =>
          injection h with h1 h2
          exact ⟨w0, tail, op, rfl, ho, by omega, by simpa using hr, h1.symm, h2.symm⟩

/-- The operation a selector's operands make has that selector. -/
@[simp] theorem op_operands (op : Op) (w0 w1 w2 : Word) : (operands op w0 w1 w2).op = op := by cases op <;> rfl

end Sys2Proof
end

