-- ==== Sys2Proof/Laws/Memory.lean ====
section
/-! SUPPORT. The laws of DMEM and PMEM: a read gives what was written there, a write leaves every other address alone, and every
operation keeps the canonical form and the memory's bounds. -/

namespace Sys2Proof.Machine

variable {w : Nat}

@[simp] theorem Mem.get?_nil (a : Nat) : Mem.get? ([] : Mem w) a = none := rfl

theorem Mem.get?_put_same (m : Mem w) (a : Nat) (v : BitVec w) : (m.put a v).get? a = some v := by
  induction m with
  | nil => simp [Mem.put, Mem.get?]
  | cons c m ih =>
    obtain ⟨b, u⟩ := c
    simp only [Mem.put]
    split
    · simp [Mem.get?]
    · split <;> simp_all [Mem.get?]

theorem Mem.get?_put_other (m : Mem w) (a b : Nat) (v : BitVec w) (h : b ≠ a) : (m.put a v).get? b = m.get? b := by
  induction m with
  | nil => simp [Mem.put, Mem.get?, h]
  | cons c m ih =>
    obtain ⟨x, u⟩ := c
    simp only [Mem.put]
    split
    · simp [Mem.get?, h]
    · split <;> simp_all [Mem.get?]

theorem Mem.get?_erase_other (m : Mem w) (a b : Nat) (h : b ≠ a) : (m.erase a).get? b = m.get? b := by
  induction m with
  | nil => rfl
  | cons c m ih =>
    obtain ⟨x, u⟩ := c
    simp only [Mem.erase]
    split <;> simp_all [Mem.get?]

/-- Below the first listed address nothing is listed. -/
theorem Mem.get?_below (m : Mem w) (lo a : Nat) (h : m.wfFrom lo = true) (ha : a < lo) : m.get? a = none := by
  induction m generalizing lo with
  | nil => rfl
  | cons c m ih =>
    obtain ⟨x, u⟩ := c
    simp only [Mem.wfFrom, Bool.and_eq_true, decide_eq_true_eq] at h
    have hx : a ≠ x := by omega
    simpa [Mem.get?, hx] using ih (x + 1) h.2 (by omega)

theorem Mem.get?_erase_same (m : Mem w) (lo a : Nat) (h : m.wfFrom lo = true) : (m.erase a).get? a = none := by
  induction m generalizing lo with
  | nil => rfl
  | cons c m ih =>
    obtain ⟨x, u⟩ := c
    simp only [Mem.wfFrom, Bool.and_eq_true, decide_eq_true_eq] at h
    simp only [Mem.erase]
    split
    · next e => exact Mem.get?_below m (x + 1) a h.2 (by omega)
    · next e => simpa [Mem.get?, e] using ih (x + 1) h.2

/-- A read after a write to the same address gives the value written. -/
theorem Mem.read_write_same (m : Mem w) (a : Nat) (v : BitVec w) (h : m.wf = true) : (m.write a v).read a = v := by
  unfold Mem.write Mem.read
  split
  · next e => simp [Mem.get?_erase_same m 0 a h, e]
  · simp [Mem.get?_put_same]

/-- A write leaves every other address alone. -/
theorem Mem.read_write_other (m : Mem w) (a b : Nat) (v : BitVec w) (h : b ≠ a) : (m.write a v).read b = m.read b := by
  unfold Mem.write Mem.read
  split
  · rw [Mem.get?_erase_other m a b h]
  · rw [Mem.get?_put_other m a b v h]

theorem Mem.wfFrom_mono (m : Mem w) (lo lo' : Nat) (h : m.wfFrom lo = true) (hl : lo' ≤ lo) : m.wfFrom lo' = true := by
  cases m with
  | nil => rfl
  | cons c m =>
    obtain ⟨x, u⟩ := c
    simp only [Mem.wfFrom, Bool.and_eq_true, decide_eq_true_eq] at h ⊢
    exact ⟨⟨by omega, h.1.2⟩, h.2⟩

theorem Mem.wfFrom_put (m : Mem w) (lo a : Nat) (v : BitVec w) (h : m.wfFrom lo = true) (ha : lo ≤ a)
    (hv : v ≠ Mem.unlisted) : (m.put a v).wfFrom lo = true := by
  induction m generalizing lo with
  | nil => simp [Mem.put, Mem.wfFrom, ha, hv]
  | cons c m ih =>
    obtain ⟨x, u⟩ := c
    simp only [Mem.wfFrom, Bool.and_eq_true, decide_eq_true_eq] at h
    simp only [Mem.put]
    split
    · next hlt =>
      simp only [Mem.wfFrom, Bool.and_eq_true, decide_eq_true_eq]
      exact ⟨⟨ha, hv⟩, ⟨by omega, h.1.2⟩, h.2⟩
    · split
      · next hlt e =>
        subst e
        simp only [Mem.wfFrom, Bool.and_eq_true, decide_eq_true_eq]
        exact ⟨⟨ha, hv⟩, h.2⟩
      · next hlt e =>
        simp only [Mem.wfFrom, Bool.and_eq_true, decide_eq_true_eq]
        exact ⟨h.1, ih (x + 1) h.2 (by omega)⟩

theorem Mem.wfFrom_erase (m : Mem w) (lo a : Nat) (h : m.wfFrom lo = true) : (m.erase a).wfFrom lo = true := by
  induction m generalizing lo with
  | nil => rfl
  | cons c m ih =>
    obtain ⟨x, u⟩ := c
    simp only [Mem.wfFrom, Bool.and_eq_true, decide_eq_true_eq] at h
    simp only [Mem.erase]
    split
    · exact Mem.wfFrom_mono m (x + 1) lo h.2 (by omega)
    · simp only [Mem.wfFrom, Bool.and_eq_true, decide_eq_true_eq]
      exact ⟨h.1, ih (x + 1) h.2⟩

/-- A write keeps the canonical form. -/
theorem Mem.wf_write (m : Mem w) (a : Nat) (v : BitVec w) (h : m.wf = true) : (m.write a v).wf = true := by
  unfold Mem.write
  split
  · exact Mem.wfFrom_erase m 0 a h
  · next hv => exact Mem.wfFrom_put m 0 a v h (Nat.zero_le a) hv

theorem Mem.mem_put (m : Mem w) (a : Nat) (v : BitVec w) (c : Nat × BitVec w) (h : c ∈ m.put a v) : c = (a, v) ∨ c ∈ m := by
  induction m with
  | nil => simpa [Mem.put] using h
  | cons d m ih =>
    obtain ⟨x, u⟩ := d
    simp only [Mem.put] at h
    split at h
    · simpa using h
    · split at h
      · rcases List.mem_cons.1 h with h | h
        · exact .inl h
        · exact .inr (List.mem_cons_of_mem _ h)
      · rcases List.mem_cons.1 h with h | h
        · exact .inr (by simp [h])
        · rcases ih h with h | h
          · exact .inl h
          · exact .inr (List.mem_cons_of_mem _ h)

theorem Mem.mem_erase (m : Mem w) (a : Nat) (c : Nat × BitVec w) (h : c ∈ m.erase a) : c ∈ m := by
  induction m with
  | nil => exact h
  | cons d m ih =>
    obtain ⟨x, u⟩ := d
    simp only [Mem.erase] at h
    split at h
    · exact List.mem_cons_of_mem _ h
    · rcases List.mem_cons.1 h with h | h
      · simp [h]
      · exact List.mem_cons_of_mem _ (ih h)

/-- A write to an existing address keeps the memory inside its bounds. -/
theorem Mem.within_write (m : Mem w) (size a : Nat) (v : BitVec w) (h : m.within size = true) (ha : a < size) :
    (m.write a v).within size = true := by
  simp only [Mem.within, List.all_eq_true, decide_eq_true_eq] at h ⊢
  intro c hc
  unfold Mem.write at hc
  split at hc
  · exact h c (Mem.mem_erase m a c hc)
  · rcases Mem.mem_put m a v c hc with rfl | hc
    · exact ha
    · exact h c hc

/-- A load keeps the canonical form. -/
theorem Mem.wf_load (size : Nat) (vs : List (BitVec w)) (a : Nat) (m : Mem w) (h : m.wf = true) :
    (Mem.load size a vs m).wf = true := by
  induction vs generalizing a m with
  | nil => exact h
  | cons v vs ih =>
    simp only [Mem.load]
    split
    · exact ih (a + 1) _ (Mem.wf_write m a v h)
    · exact ih (a + 1) m h

/-- A load stays inside the memory's bounds. -/
theorem Mem.within_load (size : Nat) (vs : List (BitVec w)) (a : Nat) (m : Mem w) (h : m.within size = true) :
    (Mem.load size a vs m).within size = true := by
  induction vs generalizing a m with
  | nil => exact h
  | cons v vs ih =>
    simp only [Mem.load]
    split
    · next ha => exact ih (a + 1) _ (Mem.within_write m size a v h ha)
    · exact ih (a + 1) m h

/-- A load leaves every address below its start alone. -/
theorem Mem.read_load_below (size : Nat) (vs : List (BitVec w)) (a b : Nat) (m : Mem w) (hb : b < a) :
    (Mem.load size a vs m).read b = m.read b := by
  induction vs generalizing a m with
  | nil => rfl
  | cons v vs ih =>
    simp only [Mem.load]
    split
    · rw [ih (a + 1) _ (by omega), Mem.read_write_other m a b v (by omega)]
    · exact ih (a + 1) m (by omega)

/-- What a load leaves at an existing address: the element loaded there, or, past the last one, what was there before. -/
theorem Mem.read_load (size : Nat) (vs : List (BitVec w)) (a n : Nat) (m : Mem w) (hm : m.wf = true) (hs : a + n < size) :
    (Mem.load size a vs m).read (a + n) = (vs[n]?).getD (m.read (a + n)) := by
  induction vs generalizing a n m with
  | nil => rfl
  | cons v vs ih =>
    simp only [Mem.load, if_pos (show a < size by omega)]
    cases n with
    | zero => simp [Mem.read_load_below size vs (a + 1) a _ (by omega), Mem.read_write_same m a v hm]
    | succ n =>
      have h := ih (a + 1) n (m.write a v) (Mem.wf_write m a v hm) (by omega)
      rw [show a + (n + 1) = a + 1 + n by omega, h, Mem.read_write_other m a _ v (by omega)]
      simp

end Sys2Proof.Machine
end

