-- ==== Sys2Proof/Laws/State.lean ====
section
/-! SUPPORT. One lemma per field of State and per update of Machine/Ops.lean, so that no later proof unfolds a record update. -/

namespace Sys2Proof.Machine

/-! ### State.raise -/

@[simp] theorem State.raise_params (s : State) (c : FaultCode) : (s.raise c).params = s.params := rfl
@[simp] theorem State.raise_dmem (s : State) (c : FaultCode) : (s.raise c).dmem = s.dmem := rfl
@[simp] theorem State.raise_pmem (s : State) (c : FaultCode) : (s.raise c).pmem = s.pmem := rfl
@[simp] theorem State.raise_mode (s : State) (c : FaultCode) : (s.raise c).mode = .faulted := rfl
@[simp] theorem State.raise_dp (s : State) (c : FaultCode) : (s.raise c).dp = s.dp := rfl
@[simp] theorem State.raise_cur (s : State) (c : FaultCode) : (s.raise c).cur = none := rfl
@[simp] theorem State.raise_fault (s : State) (c : FaultCode) : (s.raise c).fault = c.code := rfl
@[simp] theorem State.raise_faultDp (s : State) (c : FaultCode) : (s.raise c).faultDp = BitVec.ofNat 32 s.dp := rfl
@[simp] theorem State.raise_tokCmd (s : State) (c : FaultCode) : (s.raise c).tokCmd = s.tokCmd := rfl
@[simp] theorem State.raise_tokData (s : State) (c : FaultCode) : (s.raise c).tokData = s.tokData := rfl
@[simp] theorem State.raise_linesLocked (s : State) (c : FaultCode) : (s.raise c).linesLocked = s.linesLocked := rfl
@[simp] theorem State.raise_linesValid (s : State) (c : FaultCode) : (s.raise c).linesValid = s.linesValid := rfl
@[simp] theorem State.raise_owner (s : State) (c : FaultCode) : (s.raise c).owner = s.owner := rfl
@[simp] theorem State.raise_busCfg (s : State) (c : FaultCode) : (s.raise c).busCfg = s.busCfg := rfl
@[simp] theorem State.raise_savedCfg (s : State) (c : FaultCode) : (s.raise c).savedCfg = s.savedCfg := rfl
@[simp] theorem State.raise_txq (s : State) (c : FaultCode) : (s.raise c).txq = s.txq := rfl
@[simp] theorem State.raise_shifter (s : State) (c : FaultCode) : (s.raise c).shifter = s.shifter := rfl
@[simp] theorem State.raise_tcf (s : State) (c : FaultCode) : (s.raise c).tcf = s.tcf := rfl
@[simp] theorem State.raise_cs (s : State) (c : FaultCode) : (s.raise c).cs = s.cs := rfl
@[simp] theorem State.raise_wire (s : State) (c : FaultCode) : (s.raise c).wire = s.wire := rfl
@[simp] theorem State.raise_fromRun (s : State) (c : FaultCode) : (s.raise c).fromRun = s.fromRun := rfl
@[simp] theorem State.raise_schedule (s : State) (c : FaultCode) : (s.raise c).schedule = s.schedule := rfl
@[simp] theorem State.raise_policy (s : State) (c : FaultCode) : (s.raise c).policy = s.policy := rfl
@[simp] theorem State.raise_draws (s : State) (c : FaultCode) : (s.raise c).draws = s.draws := rfl

/-! ### State.begin -/

@[simp] theorem State.begin_params (s : State) (i : Instr) : (s.begin i).params = s.params := rfl
@[simp] theorem State.begin_dmem (s : State) (i : Instr) : (s.begin i).dmem = s.dmem := rfl
@[simp] theorem State.begin_pmem (s : State) (i : Instr) : (s.begin i).pmem = s.pmem := rfl
@[simp] theorem State.begin_mode (s : State) (i : Instr) : (s.begin i).mode = s.mode := rfl
@[simp] theorem State.begin_dp (s : State) (i : Instr) : (s.begin i).dp = s.dp := rfl
@[simp] theorem State.begin_cur (s : State) (i : Instr) : (s.begin i).cur = some ⟨i, 0⟩ := rfl
@[simp] theorem State.begin_fault (s : State) (i : Instr) : (s.begin i).fault = s.fault := rfl
@[simp] theorem State.begin_faultDp (s : State) (i : Instr) : (s.begin i).faultDp = s.faultDp := rfl
@[simp] theorem State.begin_tokCmd (s : State) (i : Instr) : (s.begin i).tokCmd = s.tokCmd := rfl
@[simp] theorem State.begin_tokData (s : State) (i : Instr) : (s.begin i).tokData = s.tokData := rfl
@[simp] theorem State.begin_linesLocked (s : State) (i : Instr) : (s.begin i).linesLocked = s.linesLocked := rfl
@[simp] theorem State.begin_linesValid (s : State) (i : Instr) : (s.begin i).linesValid = s.linesValid := rfl
@[simp] theorem State.begin_owner (s : State) (i : Instr) : (s.begin i).owner = s.owner := rfl
@[simp] theorem State.begin_busCfg (s : State) (i : Instr) : (s.begin i).busCfg = s.busCfg := rfl
@[simp] theorem State.begin_savedCfg (s : State) (i : Instr) : (s.begin i).savedCfg = s.savedCfg := rfl
@[simp] theorem State.begin_txq (s : State) (i : Instr) : (s.begin i).txq = s.txq := rfl
@[simp] theorem State.begin_shifter (s : State) (i : Instr) : (s.begin i).shifter = s.shifter := rfl
@[simp] theorem State.begin_tcf (s : State) (i : Instr) : (s.begin i).tcf = s.tcf := rfl
@[simp] theorem State.begin_cs (s : State) (i : Instr) : (s.begin i).cs = s.cs := rfl
@[simp] theorem State.begin_wire (s : State) (i : Instr) : (s.begin i).wire = s.wire := rfl
@[simp] theorem State.begin_fromRun (s : State) (i : Instr) : (s.begin i).fromRun = s.fromRun := rfl
@[simp] theorem State.begin_schedule (s : State) (i : Instr) : (s.begin i).schedule = s.schedule := rfl
@[simp] theorem State.begin_policy (s : State) (i : Instr) : (s.begin i).policy = s.policy := rfl
@[simp] theorem State.begin_draws (s : State) (i : Instr) : (s.begin i).draws = s.draws := rfl

/-! ### State.advance -/

@[simp] theorem State.advance_params (s : State) (i : Instr) (k : Nat) : (s.advance i k).params = s.params := rfl
@[simp] theorem State.advance_dmem (s : State) (i : Instr) (k : Nat) : (s.advance i k).dmem = s.dmem := rfl
@[simp] theorem State.advance_pmem (s : State) (i : Instr) (k : Nat) : (s.advance i k).pmem = s.pmem := rfl
@[simp] theorem State.advance_mode (s : State) (i : Instr) (k : Nat) : (s.advance i k).mode = s.mode := rfl
@[simp] theorem State.advance_dp (s : State) (i : Instr) (k : Nat) : (s.advance i k).dp = s.dp := rfl
@[simp] theorem State.advance_cur (s : State) (i : Instr) (k : Nat) : (s.advance i k).cur = some ⟨i, k + 1⟩ := rfl
@[simp] theorem State.advance_fault (s : State) (i : Instr) (k : Nat) : (s.advance i k).fault = s.fault := rfl
@[simp] theorem State.advance_faultDp (s : State) (i : Instr) (k : Nat) : (s.advance i k).faultDp = s.faultDp := rfl
@[simp] theorem State.advance_tokCmd (s : State) (i : Instr) (k : Nat) : (s.advance i k).tokCmd = s.tokCmd := rfl
@[simp] theorem State.advance_tokData (s : State) (i : Instr) (k : Nat) : (s.advance i k).tokData = s.tokData := rfl
@[simp] theorem State.advance_linesLocked (s : State) (i : Instr) (k : Nat) : (s.advance i k).linesLocked = s.linesLocked := rfl
@[simp] theorem State.advance_linesValid (s : State) (i : Instr) (k : Nat) : (s.advance i k).linesValid = s.linesValid := rfl
@[simp] theorem State.advance_owner (s : State) (i : Instr) (k : Nat) : (s.advance i k).owner = s.owner := rfl
@[simp] theorem State.advance_busCfg (s : State) (i : Instr) (k : Nat) : (s.advance i k).busCfg = s.busCfg := rfl
@[simp] theorem State.advance_savedCfg (s : State) (i : Instr) (k : Nat) : (s.advance i k).savedCfg = s.savedCfg := rfl
@[simp] theorem State.advance_txq (s : State) (i : Instr) (k : Nat) : (s.advance i k).txq = s.txq := rfl
@[simp] theorem State.advance_shifter (s : State) (i : Instr) (k : Nat) : (s.advance i k).shifter = s.shifter := rfl
@[simp] theorem State.advance_tcf (s : State) (i : Instr) (k : Nat) : (s.advance i k).tcf = s.tcf := rfl
@[simp] theorem State.advance_cs (s : State) (i : Instr) (k : Nat) : (s.advance i k).cs = s.cs := rfl
@[simp] theorem State.advance_wire (s : State) (i : Instr) (k : Nat) : (s.advance i k).wire = s.wire := rfl
@[simp] theorem State.advance_fromRun (s : State) (i : Instr) (k : Nat) : (s.advance i k).fromRun = s.fromRun := rfl
@[simp] theorem State.advance_schedule (s : State) (i : Instr) (k : Nat) : (s.advance i k).schedule = s.schedule := rfl
@[simp] theorem State.advance_policy (s : State) (i : Instr) (k : Nat) : (s.advance i k).policy = s.policy := rfl
@[simp] theorem State.advance_draws (s : State) (i : Instr) (k : Nat) : (s.advance i k).draws = s.draws := rfl

/-! ### State.retire -/

@[simp] theorem State.retire_params (s : State) (len : Nat) : (s.retire len).params = s.params := rfl
@[simp] theorem State.retire_dmem (s : State) (len : Nat) : (s.retire len).dmem = s.dmem := rfl
@[simp] theorem State.retire_pmem (s : State) (len : Nat) : (s.retire len).pmem = s.pmem := rfl
@[simp] theorem State.retire_mode (s : State) (len : Nat) : (s.retire len).mode = s.mode := rfl
@[simp] theorem State.retire_dp (s : State) (len : Nat) : (s.retire len).dp = s.dp + len := rfl
@[simp] theorem State.retire_cur (s : State) (len : Nat) : (s.retire len).cur = none := rfl
@[simp] theorem State.retire_fault (s : State) (len : Nat) : (s.retire len).fault = s.fault := rfl
@[simp] theorem State.retire_faultDp (s : State) (len : Nat) : (s.retire len).faultDp = s.faultDp := rfl
@[simp] theorem State.retire_tokCmd (s : State) (len : Nat) : (s.retire len).tokCmd = s.tokCmd := rfl
@[simp] theorem State.retire_tokData (s : State) (len : Nat) : (s.retire len).tokData = s.tokData := rfl
@[simp] theorem State.retire_linesLocked (s : State) (len : Nat) : (s.retire len).linesLocked = s.linesLocked := rfl
@[simp] theorem State.retire_linesValid (s : State) (len : Nat) : (s.retire len).linesValid = s.linesValid := rfl
@[simp] theorem State.retire_owner (s : State) (len : Nat) : (s.retire len).owner = s.owner := rfl
@[simp] theorem State.retire_busCfg (s : State) (len : Nat) : (s.retire len).busCfg = s.busCfg := rfl
@[simp] theorem State.retire_savedCfg (s : State) (len : Nat) : (s.retire len).savedCfg = s.savedCfg := rfl
@[simp] theorem State.retire_txq (s : State) (len : Nat) : (s.retire len).txq = s.txq := rfl
@[simp] theorem State.retire_shifter (s : State) (len : Nat) : (s.retire len).shifter = s.shifter := rfl
@[simp] theorem State.retire_tcf (s : State) (len : Nat) : (s.retire len).tcf = s.tcf := rfl
@[simp] theorem State.retire_cs (s : State) (len : Nat) : (s.retire len).cs = s.cs := rfl
@[simp] theorem State.retire_wire (s : State) (len : Nat) : (s.retire len).wire = s.wire := rfl
@[simp] theorem State.retire_fromRun (s : State) (len : Nat) : (s.retire len).fromRun = s.fromRun := rfl
@[simp] theorem State.retire_schedule (s : State) (len : Nat) : (s.retire len).schedule = s.schedule := rfl
@[simp] theorem State.retire_policy (s : State) (len : Nat) : (s.retire len).policy = s.policy := rfl
@[simp] theorem State.retire_draws (s : State) (len : Nat) : (s.retire len).draws = s.draws := rfl

/-! ### State.enqueue -/

@[simp] theorem State.enqueue_params (s : State) (f : Frame) : (s.enqueue f).params = s.params := rfl
@[simp] theorem State.enqueue_dmem (s : State) (f : Frame) : (s.enqueue f).dmem = s.dmem := rfl
@[simp] theorem State.enqueue_pmem (s : State) (f : Frame) : (s.enqueue f).pmem = s.pmem := rfl
@[simp] theorem State.enqueue_mode (s : State) (f : Frame) : (s.enqueue f).mode = s.mode := rfl
@[simp] theorem State.enqueue_dp (s : State) (f : Frame) : (s.enqueue f).dp = s.dp := rfl
@[simp] theorem State.enqueue_cur (s : State) (f : Frame) : (s.enqueue f).cur = s.cur := rfl
@[simp] theorem State.enqueue_fault (s : State) (f : Frame) : (s.enqueue f).fault = s.fault := rfl
@[simp] theorem State.enqueue_faultDp (s : State) (f : Frame) : (s.enqueue f).faultDp = s.faultDp := rfl
@[simp] theorem State.enqueue_tokCmd (s : State) (f : Frame) : (s.enqueue f).tokCmd = s.tokCmd := rfl
@[simp] theorem State.enqueue_tokData (s : State) (f : Frame) : (s.enqueue f).tokData = s.tokData := rfl
@[simp] theorem State.enqueue_linesLocked (s : State) (f : Frame) : (s.enqueue f).linesLocked = s.linesLocked := rfl
@[simp] theorem State.enqueue_linesValid (s : State) (f : Frame) : (s.enqueue f).linesValid = s.linesValid := rfl
@[simp] theorem State.enqueue_owner (s : State) (f : Frame) : (s.enqueue f).owner = s.owner := rfl
@[simp] theorem State.enqueue_busCfg (s : State) (f : Frame) : (s.enqueue f).busCfg = s.busCfg := rfl
@[simp] theorem State.enqueue_savedCfg (s : State) (f : Frame) : (s.enqueue f).savedCfg = s.savedCfg := rfl
@[simp] theorem State.enqueue_txq (s : State) (f : Frame) : (s.enqueue f).txq = s.txq ++ [f] := rfl
@[simp] theorem State.enqueue_shifter (s : State) (f : Frame) : (s.enqueue f).shifter = s.shifter := rfl
@[simp] theorem State.enqueue_tcf (s : State) (f : Frame) : (s.enqueue f).tcf = s.tcf := rfl
@[simp] theorem State.enqueue_cs (s : State) (f : Frame) : (s.enqueue f).cs = s.cs := rfl
@[simp] theorem State.enqueue_wire (s : State) (f : Frame) : (s.enqueue f).wire = s.wire := rfl
@[simp] theorem State.enqueue_fromRun (s : State) (f : Frame) : (s.enqueue f).fromRun = s.fromRun ++ [s.inRun] := rfl
@[simp] theorem State.enqueue_schedule (s : State) (f : Frame) : (s.enqueue f).schedule = s.schedule := rfl
@[simp] theorem State.enqueue_policy (s : State) (f : Frame) : (s.enqueue f).policy = s.policy := rfl
@[simp] theorem State.enqueue_draws (s : State) (f : Frame) : (s.enqueue f).draws = s.draws := rfl

/-! ### State.clearTcf -/

@[simp] theorem State.clearTcf_params (s : State) : s.clearTcf.params = s.params := rfl
@[simp] theorem State.clearTcf_dmem (s : State) : s.clearTcf.dmem = s.dmem := rfl
@[simp] theorem State.clearTcf_pmem (s : State) : s.clearTcf.pmem = s.pmem := rfl
@[simp] theorem State.clearTcf_mode (s : State) : s.clearTcf.mode = s.mode := rfl
@[simp] theorem State.clearTcf_dp (s : State) : s.clearTcf.dp = s.dp := rfl
@[simp] theorem State.clearTcf_cur (s : State) : s.clearTcf.cur = s.cur := rfl
@[simp] theorem State.clearTcf_fault (s : State) : s.clearTcf.fault = s.fault := rfl
@[simp] theorem State.clearTcf_faultDp (s : State) : s.clearTcf.faultDp = s.faultDp := rfl
@[simp] theorem State.clearTcf_tokCmd (s : State) : s.clearTcf.tokCmd = s.tokCmd := rfl
@[simp] theorem State.clearTcf_tokData (s : State) : s.clearTcf.tokData = s.tokData := rfl
@[simp] theorem State.clearTcf_linesLocked (s : State) : s.clearTcf.linesLocked = s.linesLocked := rfl
@[simp] theorem State.clearTcf_linesValid (s : State) : s.clearTcf.linesValid = s.linesValid := rfl
@[simp] theorem State.clearTcf_owner (s : State) : s.clearTcf.owner = s.owner := rfl
@[simp] theorem State.clearTcf_busCfg (s : State) : s.clearTcf.busCfg = s.busCfg := rfl
@[simp] theorem State.clearTcf_savedCfg (s : State) : s.clearTcf.savedCfg = s.savedCfg := rfl
@[simp] theorem State.clearTcf_txq (s : State) : s.clearTcf.txq = s.txq := rfl
@[simp] theorem State.clearTcf_shifter (s : State) : s.clearTcf.shifter = s.shifter := rfl
@[simp] theorem State.clearTcf_tcf (s : State) : s.clearTcf.tcf = false := rfl
@[simp] theorem State.clearTcf_cs (s : State) : s.clearTcf.cs = s.cs := rfl
@[simp] theorem State.clearTcf_wire (s : State) : s.clearTcf.wire = s.wire := rfl
@[simp] theorem State.clearTcf_fromRun (s : State) : s.clearTcf.fromRun = s.fromRun := rfl
@[simp] theorem State.clearTcf_schedule (s : State) : s.clearTcf.schedule = s.schedule := rfl
@[simp] theorem State.clearTcf_policy (s : State) : s.clearTcf.policy = s.policy := rfl
@[simp] theorem State.clearTcf_draws (s : State) : s.clearTcf.draws = s.draws := rfl

/-! ### State.openSession -/

@[simp] theorem State.openSession_params (s : State) : s.openSession.params = s.params := rfl
@[simp] theorem State.openSession_dmem (s : State) : s.openSession.dmem = s.dmem := rfl
@[simp] theorem State.openSession_pmem (s : State) : s.openSession.pmem = s.pmem := rfl
@[simp] theorem State.openSession_mode (s : State) : s.openSession.mode = s.mode := rfl
@[simp] theorem State.openSession_dp (s : State) : s.openSession.dp = s.dp := rfl
@[simp] theorem State.openSession_cur (s : State) : s.openSession.cur = s.cur := rfl
@[simp] theorem State.openSession_fault (s : State) : s.openSession.fault = s.fault := rfl
@[simp] theorem State.openSession_faultDp (s : State) : s.openSession.faultDp = s.faultDp := rfl
@[simp] theorem State.openSession_tokCmd (s : State) : s.openSession.tokCmd = s.tokCmd := rfl
@[simp] theorem State.openSession_tokData (s : State) : s.openSession.tokData = s.tokData := rfl
@[simp] theorem State.openSession_linesLocked (s : State) : s.openSession.linesLocked = s.linesLocked := rfl
@[simp] theorem State.openSession_linesValid (s : State) : s.openSession.linesValid = s.linesValid := rfl
@[simp] theorem State.openSession_owner (s : State) : s.openSession.owner = .self := rfl
@[simp] theorem State.openSession_busCfg (s : State) : s.openSession.busCfg = s.params.sessionCfg := rfl
@[simp] theorem State.openSession_savedCfg (s : State) : s.openSession.savedCfg = some s.busCfg := rfl
@[simp] theorem State.openSession_txq (s : State) : s.openSession.txq = s.txq := rfl
@[simp] theorem State.openSession_shifter (s : State) : s.openSession.shifter = s.shifter := rfl
@[simp] theorem State.openSession_tcf (s : State) : s.openSession.tcf = s.tcf := rfl
@[simp] theorem State.openSession_cs (s : State) : s.openSession.cs = s.cs := rfl
@[simp] theorem State.openSession_wire (s : State) : s.openSession.wire = s.wire := rfl
@[simp] theorem State.openSession_fromRun (s : State) : s.openSession.fromRun = s.fromRun := rfl
@[simp] theorem State.openSession_schedule (s : State) : s.openSession.schedule = s.schedule := rfl
@[simp] theorem State.openSession_policy (s : State) : s.openSession.policy = s.policy := rfl
@[simp] theorem State.openSession_draws (s : State) : s.openSession.draws = s.draws := rfl

/-! ### State.closeSession -/

@[simp] theorem State.closeSession_params (s : State) (b : BusCfg) : (s.closeSession b).params = s.params := rfl
@[simp] theorem State.closeSession_dmem (s : State) (b : BusCfg) : (s.closeSession b).dmem = s.dmem := rfl
@[simp] theorem State.closeSession_pmem (s : State) (b : BusCfg) : (s.closeSession b).pmem = s.pmem := rfl
@[simp] theorem State.closeSession_mode (s : State) (b : BusCfg) : (s.closeSession b).mode = s.mode := rfl
@[simp] theorem State.closeSession_dp (s : State) (b : BusCfg) : (s.closeSession b).dp = s.dp := rfl
@[simp] theorem State.closeSession_cur (s : State) (b : BusCfg) : (s.closeSession b).cur = s.cur := rfl
@[simp] theorem State.closeSession_fault (s : State) (b : BusCfg) : (s.closeSession b).fault = s.fault := rfl
@[simp] theorem State.closeSession_faultDp (s : State) (b : BusCfg) : (s.closeSession b).faultDp = s.faultDp := rfl
@[simp] theorem State.closeSession_tokCmd (s : State) (b : BusCfg) : (s.closeSession b).tokCmd = s.tokCmd := rfl
@[simp] theorem State.closeSession_tokData (s : State) (b : BusCfg) : (s.closeSession b).tokData = s.tokData := rfl
@[simp] theorem State.closeSession_linesLocked (s : State) (b : BusCfg) : (s.closeSession b).linesLocked = s.linesLocked := rfl
@[simp] theorem State.closeSession_linesValid (s : State) (b : BusCfg) : (s.closeSession b).linesValid = s.linesValid := rfl
@[simp] theorem State.closeSession_owner (s : State) (b : BusCfg) : (s.closeSession b).owner = .none := rfl
@[simp] theorem State.closeSession_busCfg (s : State) (b : BusCfg) : (s.closeSession b).busCfg = b := rfl
@[simp] theorem State.closeSession_savedCfg (s : State) (b : BusCfg) : (s.closeSession b).savedCfg = s.savedCfg := rfl
@[simp] theorem State.closeSession_txq (s : State) (b : BusCfg) : (s.closeSession b).txq = s.txq := rfl
@[simp] theorem State.closeSession_shifter (s : State) (b : BusCfg) : (s.closeSession b).shifter = s.shifter := rfl
@[simp] theorem State.closeSession_tcf (s : State) (b : BusCfg) : (s.closeSession b).tcf = s.tcf := rfl
@[simp] theorem State.closeSession_cs (s : State) (b : BusCfg) : (s.closeSession b).cs = s.cs := rfl
@[simp] theorem State.closeSession_wire (s : State) (b : BusCfg) : (s.closeSession b).wire = s.wire := rfl
@[simp] theorem State.closeSession_fromRun (s : State) (b : BusCfg) : (s.closeSession b).fromRun = s.fromRun := rfl
@[simp] theorem State.closeSession_schedule (s : State) (b : BusCfg) : (s.closeSession b).schedule = s.schedule := rfl
@[simp] theorem State.closeSession_policy (s : State) (b : BusCfg) : (s.closeSession b).policy = s.policy := rfl
@[simp] theorem State.closeSession_draws (s : State) (b : BusCfg) : (s.closeSession b).draws = s.draws := rfl

/-! ### State.installLines -/

@[simp] theorem State.installLines_params (s : State) (tc td : Half) : (s.installLines tc td).params = s.params := rfl
@[simp] theorem State.installLines_dmem (s : State) (tc td : Half) : (s.installLines tc td).dmem = s.dmem := rfl
@[simp] theorem State.installLines_pmem (s : State) (tc td : Half) : (s.installLines tc td).pmem = s.pmem := rfl
@[simp] theorem State.installLines_mode (s : State) (tc td : Half) : (s.installLines tc td).mode = s.mode := rfl
@[simp] theorem State.installLines_dp (s : State) (tc td : Half) : (s.installLines tc td).dp = s.dp := rfl
@[simp] theorem State.installLines_cur (s : State) (tc td : Half) : (s.installLines tc td).cur = s.cur := rfl
@[simp] theorem State.installLines_fault (s : State) (tc td : Half) : (s.installLines tc td).fault = s.fault := rfl
@[simp] theorem State.installLines_faultDp (s : State) (tc td : Half) : (s.installLines tc td).faultDp = s.faultDp := rfl
@[simp] theorem State.installLines_tokCmd (s : State) (tc td : Half) : (s.installLines tc td).tokCmd = tc := rfl
@[simp] theorem State.installLines_tokData (s : State) (tc td : Half) : (s.installLines tc td).tokData = td := rfl
@[simp] theorem State.installLines_linesLocked (s : State) (tc td : Half) : (s.installLines tc td).linesLocked = true := rfl
@[simp] theorem State.installLines_linesValid (s : State) (tc td : Half) : (s.installLines tc td).linesValid = true := rfl
@[simp] theorem State.installLines_owner (s : State) (tc td : Half) : (s.installLines tc td).owner = s.owner := rfl
@[simp] theorem State.installLines_busCfg (s : State) (tc td : Half) : (s.installLines tc td).busCfg = s.busCfg := rfl
@[simp] theorem State.installLines_savedCfg (s : State) (tc td : Half) : (s.installLines tc td).savedCfg = s.savedCfg := rfl
@[simp] theorem State.installLines_txq (s : State) (tc td : Half) : (s.installLines tc td).txq = s.txq := rfl
@[simp] theorem State.installLines_shifter (s : State) (tc td : Half) : (s.installLines tc td).shifter = s.shifter := rfl
@[simp] theorem State.installLines_tcf (s : State) (tc td : Half) : (s.installLines tc td).tcf = s.tcf := rfl
@[simp] theorem State.installLines_cs (s : State) (tc td : Half) : (s.installLines tc td).cs = s.cs := rfl
@[simp] theorem State.installLines_wire (s : State) (tc td : Half) : (s.installLines tc td).wire = s.wire := rfl
@[simp] theorem State.installLines_fromRun (s : State) (tc td : Half) : (s.installLines tc td).fromRun = s.fromRun := rfl
@[simp] theorem State.installLines_schedule (s : State) (tc td : Half) : (s.installLines tc td).schedule = s.schedule := rfl
@[simp] theorem State.installLines_policy (s : State) (tc td : Half) : (s.installLines tc td).policy = s.policy := rfl
@[simp] theorem State.installLines_draws (s : State) (tc td : Half) : (s.installLines tc td).draws = s.draws := rfl

/-! ### State.lockLines -/

@[simp] theorem State.lockLines_params (s : State) : s.lockLines.params = s.params := rfl
@[simp] theorem State.lockLines_dmem (s : State) : s.lockLines.dmem = s.dmem := rfl
@[simp] theorem State.lockLines_pmem (s : State) : s.lockLines.pmem = s.pmem := rfl
@[simp] theorem State.lockLines_mode (s : State) : s.lockLines.mode = s.mode := rfl
@[simp] theorem State.lockLines_dp (s : State) : s.lockLines.dp = s.dp := rfl
@[simp] theorem State.lockLines_cur (s : State) : s.lockLines.cur = s.cur := rfl
@[simp] theorem State.lockLines_fault (s : State) : s.lockLines.fault = s.fault := rfl
@[simp] theorem State.lockLines_faultDp (s : State) : s.lockLines.faultDp = s.faultDp := rfl
@[simp] theorem State.lockLines_tokCmd (s : State) : s.lockLines.tokCmd = s.tokCmd := rfl
@[simp] theorem State.lockLines_tokData (s : State) : s.lockLines.tokData = s.tokData := rfl
@[simp] theorem State.lockLines_linesLocked (s : State) : s.lockLines.linesLocked = true := rfl
@[simp] theorem State.lockLines_linesValid (s : State) : s.lockLines.linesValid = s.linesValid := rfl
@[simp] theorem State.lockLines_owner (s : State) : s.lockLines.owner = s.owner := rfl
@[simp] theorem State.lockLines_busCfg (s : State) : s.lockLines.busCfg = s.busCfg := rfl
@[simp] theorem State.lockLines_savedCfg (s : State) : s.lockLines.savedCfg = s.savedCfg := rfl
@[simp] theorem State.lockLines_txq (s : State) : s.lockLines.txq = s.txq := rfl
@[simp] theorem State.lockLines_shifter (s : State) : s.lockLines.shifter = s.shifter := rfl
@[simp] theorem State.lockLines_tcf (s : State) : s.lockLines.tcf = s.tcf := rfl
@[simp] theorem State.lockLines_cs (s : State) : s.lockLines.cs = s.cs := rfl
@[simp] theorem State.lockLines_wire (s : State) : s.lockLines.wire = s.wire := rfl
@[simp] theorem State.lockLines_fromRun (s : State) : s.lockLines.fromRun = s.fromRun := rfl
@[simp] theorem State.lockLines_schedule (s : State) : s.lockLines.schedule = s.schedule := rfl
@[simp] theorem State.lockLines_policy (s : State) : s.lockLines.policy = s.policy := rfl
@[simp] theorem State.lockLines_draws (s : State) : s.lockLines.draws = s.draws := rfl

/-! ### State.stop -/

@[simp] theorem State.stop_params (s : State) : s.stop.params = s.params := rfl
@[simp] theorem State.stop_dmem (s : State) : s.stop.dmem = s.dmem := rfl
@[simp] theorem State.stop_pmem (s : State) : s.stop.pmem = s.pmem := rfl
@[simp] theorem State.stop_mode (s : State) : s.stop.mode = .halted := rfl
@[simp] theorem State.stop_dp (s : State) : s.stop.dp = s.dp := rfl
@[simp] theorem State.stop_cur (s : State) : s.stop.cur = none := rfl
@[simp] theorem State.stop_fault (s : State) : s.stop.fault = s.fault := rfl
@[simp] theorem State.stop_faultDp (s : State) : s.stop.faultDp = s.faultDp := rfl
@[simp] theorem State.stop_tokCmd (s : State) : s.stop.tokCmd = s.tokCmd := rfl
@[simp] theorem State.stop_tokData (s : State) : s.stop.tokData = s.tokData := rfl
@[simp] theorem State.stop_linesLocked (s : State) : s.stop.linesLocked = s.linesLocked := rfl
@[simp] theorem State.stop_linesValid (s : State) : s.stop.linesValid = s.linesValid := rfl
@[simp] theorem State.stop_owner (s : State) : s.stop.owner = s.owner := rfl
@[simp] theorem State.stop_busCfg (s : State) : s.stop.busCfg = s.busCfg := rfl
@[simp] theorem State.stop_savedCfg (s : State) : s.stop.savedCfg = s.savedCfg := rfl
@[simp] theorem State.stop_txq (s : State) : s.stop.txq = s.txq := rfl
@[simp] theorem State.stop_shifter (s : State) : s.stop.shifter = s.shifter := rfl
@[simp] theorem State.stop_tcf (s : State) : s.stop.tcf = s.tcf := rfl
@[simp] theorem State.stop_cs (s : State) : s.stop.cs = s.cs := rfl
@[simp] theorem State.stop_wire (s : State) : s.stop.wire = s.wire := rfl
@[simp] theorem State.stop_fromRun (s : State) : s.stop.fromRun = s.fromRun := rfl
@[simp] theorem State.stop_schedule (s : State) : s.stop.schedule = s.schedule := rfl
@[simp] theorem State.stop_policy (s : State) : s.stop.policy = s.policy := rfl
@[simp] theorem State.stop_draws (s : State) : s.stop.draws = s.draws := rfl

/-! ### State.startShift -/

@[simp] theorem State.startShift_params (s : State) (f : Frame) (q : List Frame) : (s.startShift f q).params = s.params := rfl
@[simp] theorem State.startShift_dmem (s : State) (f : Frame) (q : List Frame) : (s.startShift f q).dmem = s.dmem := rfl
@[simp] theorem State.startShift_pmem (s : State) (f : Frame) (q : List Frame) : (s.startShift f q).pmem = s.pmem := rfl
@[simp] theorem State.startShift_mode (s : State) (f : Frame) (q : List Frame) : (s.startShift f q).mode = s.mode := rfl
@[simp] theorem State.startShift_dp (s : State) (f : Frame) (q : List Frame) : (s.startShift f q).dp = s.dp := rfl
@[simp] theorem State.startShift_cur (s : State) (f : Frame) (q : List Frame) : (s.startShift f q).cur = s.cur := rfl
@[simp] theorem State.startShift_fault (s : State) (f : Frame) (q : List Frame) : (s.startShift f q).fault = s.fault := rfl
@[simp] theorem State.startShift_faultDp (s : State) (f : Frame) (q : List Frame) : (s.startShift f q).faultDp = s.faultDp := rfl
@[simp] theorem State.startShift_tokCmd (s : State) (f : Frame) (q : List Frame) : (s.startShift f q).tokCmd = s.tokCmd := rfl
@[simp] theorem State.startShift_tokData (s : State) (f : Frame) (q : List Frame) : (s.startShift f q).tokData = s.tokData := rfl
@[simp] theorem State.startShift_linesLocked (s : State) (f : Frame) (q : List Frame) : (s.startShift f q).linesLocked = s.linesLocked := rfl
@[simp] theorem State.startShift_linesValid (s : State) (f : Frame) (q : List Frame) : (s.startShift f q).linesValid = s.linesValid := rfl
@[simp] theorem State.startShift_owner (s : State) (f : Frame) (q : List Frame) : (s.startShift f q).owner = s.owner := rfl
@[simp] theorem State.startShift_busCfg (s : State) (f : Frame) (q : List Frame) : (s.startShift f q).busCfg = s.busCfg := rfl
@[simp] theorem State.startShift_savedCfg (s : State) (f : Frame) (q : List Frame) : (s.startShift f q).savedCfg = s.savedCfg := rfl
@[simp] theorem State.startShift_txq (s : State) (f : Frame) (q : List Frame) : (s.startShift f q).txq = q := rfl
@[simp] theorem State.startShift_shifter (s : State) (f : Frame) (q : List Frame) : (s.startShift f q).shifter = some f := rfl
@[simp] theorem State.startShift_tcf (s : State) (f : Frame) (q : List Frame) : (s.startShift f q).tcf = s.tcf := rfl
@[simp] theorem State.startShift_cs (s : State) (f : Frame) (q : List Frame) : (s.startShift f q).cs = true := rfl
@[simp] theorem State.startShift_wire (s : State) (f : Frame) (q : List Frame) : (s.startShift f q).wire = s.wire := rfl
@[simp] theorem State.startShift_fromRun (s : State) (f : Frame) (q : List Frame) : (s.startShift f q).fromRun = s.fromRun := rfl
@[simp] theorem State.startShift_schedule (s : State) (f : Frame) (q : List Frame) : (s.startShift f q).schedule = s.schedule := rfl
@[simp] theorem State.startShift_policy (s : State) (f : Frame) (q : List Frame) : (s.startShift f q).policy = s.policy := rfl
@[simp] theorem State.startShift_draws (s : State) (f : Frame) (q : List Frame) : (s.startShift f q).draws = s.draws := rfl

/-! ### State.finishShift -/

@[simp] theorem State.finishShift_params (s : State) (f : Frame) : (s.finishShift f).params = s.params := rfl
@[simp] theorem State.finishShift_dmem (s : State) (f : Frame) : (s.finishShift f).dmem = s.dmem := rfl
@[simp] theorem State.finishShift_pmem (s : State) (f : Frame) : (s.finishShift f).pmem = s.pmem := rfl
@[simp] theorem State.finishShift_mode (s : State) (f : Frame) : (s.finishShift f).mode = s.mode := rfl
@[simp] theorem State.finishShift_dp (s : State) (f : Frame) : (s.finishShift f).dp = s.dp := rfl
@[simp] theorem State.finishShift_cur (s : State) (f : Frame) : (s.finishShift f).cur = s.cur := rfl
@[simp] theorem State.finishShift_fault (s : State) (f : Frame) : (s.finishShift f).fault = s.fault := rfl
@[simp] theorem State.finishShift_faultDp (s : State) (f : Frame) : (s.finishShift f).faultDp = s.faultDp := rfl
@[simp] theorem State.finishShift_tokCmd (s : State) (f : Frame) : (s.finishShift f).tokCmd = s.tokCmd := rfl
@[simp] theorem State.finishShift_tokData (s : State) (f : Frame) : (s.finishShift f).tokData = s.tokData := rfl
@[simp] theorem State.finishShift_linesLocked (s : State) (f : Frame) : (s.finishShift f).linesLocked = s.linesLocked := rfl
@[simp] theorem State.finishShift_linesValid (s : State) (f : Frame) : (s.finishShift f).linesValid = s.linesValid := rfl
@[simp] theorem State.finishShift_owner (s : State) (f : Frame) : (s.finishShift f).owner = s.owner := rfl
@[simp] theorem State.finishShift_busCfg (s : State) (f : Frame) : (s.finishShift f).busCfg = s.busCfg := rfl
@[simp] theorem State.finishShift_savedCfg (s : State) (f : Frame) : (s.finishShift f).savedCfg = s.savedCfg := rfl
@[simp] theorem State.finishShift_txq (s : State) (f : Frame) : (s.finishShift f).txq = s.txq := rfl
@[simp] theorem State.finishShift_shifter (s : State) (f : Frame) : (s.finishShift f).shifter = none := rfl
@[simp] theorem State.finishShift_tcf (s : State) (f : Frame) : (s.finishShift f).tcf = tcfAfter s.params.tcfMode f s.tcf := rfl
@[simp] theorem State.finishShift_cs (s : State) (f : Frame) : (s.finishShift f).cs = csAfter f s.cs := rfl
@[simp] theorem State.finishShift_wire (s : State) (f : Frame) : (s.finishShift f).wire = s.wire ++ [⟨f, s.busCfg⟩] := rfl
@[simp] theorem State.finishShift_fromRun (s : State) (f : Frame) : (s.finishShift f).fromRun = s.fromRun := rfl
@[simp] theorem State.finishShift_schedule (s : State) (f : Frame) : (s.finishShift f).schedule = s.schedule := rfl
@[simp] theorem State.finishShift_policy (s : State) (f : Frame) : (s.finishShift f).policy = s.policy := rfl
@[simp] theorem State.finishShift_draws (s : State) (f : Frame) : (s.finishShift f).draws = s.draws := rfl

/-! ### State.otherTakes -/

@[simp] theorem State.otherTakes_params (s : State) : s.otherTakes.params = s.params := rfl
@[simp] theorem State.otherTakes_dmem (s : State) : s.otherTakes.dmem = s.dmem := rfl
@[simp] theorem State.otherTakes_pmem (s : State) : s.otherTakes.pmem = s.pmem := rfl
@[simp] theorem State.otherTakes_mode (s : State) : s.otherTakes.mode = s.mode := rfl
@[simp] theorem State.otherTakes_dp (s : State) : s.otherTakes.dp = s.dp := rfl
@[simp] theorem State.otherTakes_cur (s : State) : s.otherTakes.cur = s.cur := rfl
@[simp] theorem State.otherTakes_fault (s : State) : s.otherTakes.fault = s.fault := rfl
@[simp] theorem State.otherTakes_faultDp (s : State) : s.otherTakes.faultDp = s.faultDp := rfl
@[simp] theorem State.otherTakes_tokCmd (s : State) : s.otherTakes.tokCmd = s.tokCmd := rfl
@[simp] theorem State.otherTakes_tokData (s : State) : s.otherTakes.tokData = s.tokData := rfl
@[simp] theorem State.otherTakes_linesLocked (s : State) : s.otherTakes.linesLocked = s.linesLocked := rfl
@[simp] theorem State.otherTakes_linesValid (s : State) : s.otherTakes.linesValid = s.linesValid := rfl
@[simp] theorem State.otherTakes_owner (s : State) : s.otherTakes.owner = .other := rfl
@[simp] theorem State.otherTakes_busCfg (s : State) : s.otherTakes.busCfg = s.busCfg := rfl
@[simp] theorem State.otherTakes_savedCfg (s : State) : s.otherTakes.savedCfg = s.savedCfg := rfl
@[simp] theorem State.otherTakes_txq (s : State) : s.otherTakes.txq = s.txq := rfl
@[simp] theorem State.otherTakes_shifter (s : State) : s.otherTakes.shifter = s.shifter := rfl
@[simp] theorem State.otherTakes_tcf (s : State) : s.otherTakes.tcf = s.tcf := rfl
@[simp] theorem State.otherTakes_cs (s : State) : s.otherTakes.cs = s.cs := rfl
@[simp] theorem State.otherTakes_wire (s : State) : s.otherTakes.wire = s.wire := rfl
@[simp] theorem State.otherTakes_fromRun (s : State) : s.otherTakes.fromRun = s.fromRun := rfl
@[simp] theorem State.otherTakes_schedule (s : State) : s.otherTakes.schedule = s.schedule := rfl
@[simp] theorem State.otherTakes_policy (s : State) : s.otherTakes.policy = s.policy := rfl
@[simp] theorem State.otherTakes_draws (s : State) : s.otherTakes.draws = s.draws := rfl

/-! ### State.otherGives -/

@[simp] theorem State.otherGives_params (s : State) (b : BusCfg) (t : Bool) : (s.otherGives b t).params = s.params := rfl
@[simp] theorem State.otherGives_dmem (s : State) (b : BusCfg) (t : Bool) : (s.otherGives b t).dmem = s.dmem := rfl
@[simp] theorem State.otherGives_pmem (s : State) (b : BusCfg) (t : Bool) : (s.otherGives b t).pmem = s.pmem := rfl
@[simp] theorem State.otherGives_mode (s : State) (b : BusCfg) (t : Bool) : (s.otherGives b t).mode = s.mode := rfl
@[simp] theorem State.otherGives_dp (s : State) (b : BusCfg) (t : Bool) : (s.otherGives b t).dp = s.dp := rfl
@[simp] theorem State.otherGives_cur (s : State) (b : BusCfg) (t : Bool) : (s.otherGives b t).cur = s.cur := rfl
@[simp] theorem State.otherGives_fault (s : State) (b : BusCfg) (t : Bool) : (s.otherGives b t).fault = s.fault := rfl
@[simp] theorem State.otherGives_faultDp (s : State) (b : BusCfg) (t : Bool) : (s.otherGives b t).faultDp = s.faultDp := rfl
@[simp] theorem State.otherGives_tokCmd (s : State) (b : BusCfg) (t : Bool) : (s.otherGives b t).tokCmd = s.tokCmd := rfl
@[simp] theorem State.otherGives_tokData (s : State) (b : BusCfg) (t : Bool) : (s.otherGives b t).tokData = s.tokData := rfl
@[simp] theorem State.otherGives_linesLocked (s : State) (b : BusCfg) (t : Bool) : (s.otherGives b t).linesLocked = s.linesLocked := rfl
@[simp] theorem State.otherGives_linesValid (s : State) (b : BusCfg) (t : Bool) : (s.otherGives b t).linesValid = s.linesValid := rfl
@[simp] theorem State.otherGives_owner (s : State) (b : BusCfg) (t : Bool) : (s.otherGives b t).owner = .none := rfl
@[simp] theorem State.otherGives_busCfg (s : State) (b : BusCfg) (t : Bool) : (s.otherGives b t).busCfg = b := rfl
@[simp] theorem State.otherGives_savedCfg (s : State) (b : BusCfg) (t : Bool) : (s.otherGives b t).savedCfg = s.savedCfg := rfl
@[simp] theorem State.otherGives_txq (s : State) (b : BusCfg) (t : Bool) : (s.otherGives b t).txq = s.txq := rfl
@[simp] theorem State.otherGives_shifter (s : State) (b : BusCfg) (t : Bool) : (s.otherGives b t).shifter = s.shifter := rfl
@[simp] theorem State.otherGives_tcf (s : State) (b : BusCfg) (t : Bool) : (s.otherGives b t).tcf = t := rfl
@[simp] theorem State.otherGives_cs (s : State) (b : BusCfg) (t : Bool) : (s.otherGives b t).cs = s.cs := rfl
@[simp] theorem State.otherGives_wire (s : State) (b : BusCfg) (t : Bool) : (s.otherGives b t).wire = s.wire := rfl
@[simp] theorem State.otherGives_fromRun (s : State) (b : BusCfg) (t : Bool) : (s.otherGives b t).fromRun = s.fromRun := rfl
@[simp] theorem State.otherGives_schedule (s : State) (b : BusCfg) (t : Bool) : (s.otherGives b t).schedule = s.schedule := rfl
@[simp] theorem State.otherGives_policy (s : State) (b : BusCfg) (t : Bool) : (s.otherGives b t).policy = s.policy := rfl
@[simp] theorem State.otherGives_draws (s : State) (b : BusCfg) (t : Bool) : (s.otherGives b t).draws = s.draws := rfl

/-! ### State.afterReset -/

@[simp] theorem State.afterReset_params (s : State) (o : Bool) : (s.afterReset o).params = s.params := rfl
@[simp] theorem State.afterReset_dmem (s : State) (o : Bool) : (s.afterReset o).dmem = s.dmem := rfl
@[simp] theorem State.afterReset_pmem (s : State) (o : Bool) : (s.afterReset o).pmem = s.pmem := rfl
@[simp] theorem State.afterReset_mode (s : State) (o : Bool) : (s.afterReset o).mode = .run := rfl
@[simp] theorem State.afterReset_dp (s : State) (o : Bool) : (s.afterReset o).dp = s.params.launchDp := rfl
@[simp] theorem State.afterReset_cur (s : State) (o : Bool) : (s.afterReset o).cur = none := rfl
@[simp] theorem State.afterReset_fault (s : State) (o : Bool) : (s.afterReset o).fault = 0 := rfl
@[simp] theorem State.afterReset_faultDp (s : State) (o : Bool) : (s.afterReset o).faultDp = 0 := rfl
@[simp] theorem State.afterReset_tokCmd (s : State) (o : Bool) : (s.afterReset o).tokCmd = s.params.sentinel := rfl
@[simp] theorem State.afterReset_tokData (s : State) (o : Bool) : (s.afterReset o).tokData = s.params.sentinel := rfl
@[simp] theorem State.afterReset_linesLocked (s : State) (o : Bool) : (s.afterReset o).linesLocked = false := rfl
@[simp] theorem State.afterReset_linesValid (s : State) (o : Bool) : (s.afterReset o).linesValid = false := rfl
@[simp] theorem State.afterReset_owner (s : State) (o : Bool) : (s.afterReset o).owner = if o then .other else .none := rfl
@[simp] theorem State.afterReset_busCfg (s : State) (o : Bool) : (s.afterReset o).busCfg = s.params.initBusCfg := rfl
@[simp] theorem State.afterReset_savedCfg (s : State) (o : Bool) : (s.afterReset o).savedCfg = none := rfl
@[simp] theorem State.afterReset_txq (s : State) (o : Bool) : (s.afterReset o).txq = [] := rfl
@[simp] theorem State.afterReset_shifter (s : State) (o : Bool) : (s.afterReset o).shifter = none := rfl
@[simp] theorem State.afterReset_tcf (s : State) (o : Bool) : (s.afterReset o).tcf = false := rfl
@[simp] theorem State.afterReset_cs (s : State) (o : Bool) : (s.afterReset o).cs = false := rfl
@[simp] theorem State.afterReset_wire (s : State) (o : Bool) : (s.afterReset o).wire = [] := rfl
@[simp] theorem State.afterReset_fromRun (s : State) (o : Bool) : (s.afterReset o).fromRun = [] := rfl
@[simp] theorem State.afterReset_schedule (s : State) (o : Bool) : (s.afterReset o).schedule = s.schedule := rfl
@[simp] theorem State.afterReset_policy (s : State) (o : Bool) : (s.afterReset o).policy = s.policy := rfl
@[simp] theorem State.afterReset_draws (s : State) (o : Bool) : (s.afterReset o).draws = s.draws := rfl

/-! ### State.loadMemories -/

@[simp] theorem State.loadMemories_params (s : State) (p : List Word) (q : List Half) : (s.loadMemories p q).params = s.params := rfl
@[simp] theorem State.loadMemories_dmem (s : State) (p : List Word) (q : List Half) : (s.loadMemories p q).dmem = Mem.load s.params.dmemWords 0 p [] := rfl
@[simp] theorem State.loadMemories_pmem (s : State) (p : List Word) (q : List Half) : (s.loadMemories p q).pmem = Mem.load s.params.pmemSize 0 q [] := rfl
@[simp] theorem State.loadMemories_mode (s : State) (p : List Word) (q : List Half) : (s.loadMemories p q).mode = s.mode := rfl
@[simp] theorem State.loadMemories_dp (s : State) (p : List Word) (q : List Half) : (s.loadMemories p q).dp = s.dp := rfl
@[simp] theorem State.loadMemories_cur (s : State) (p : List Word) (q : List Half) : (s.loadMemories p q).cur = s.cur := rfl
@[simp] theorem State.loadMemories_fault (s : State) (p : List Word) (q : List Half) : (s.loadMemories p q).fault = s.fault := rfl
@[simp] theorem State.loadMemories_faultDp (s : State) (p : List Word) (q : List Half) : (s.loadMemories p q).faultDp = s.faultDp := rfl
@[simp] theorem State.loadMemories_tokCmd (s : State) (p : List Word) (q : List Half) : (s.loadMemories p q).tokCmd = s.tokCmd := rfl
@[simp] theorem State.loadMemories_tokData (s : State) (p : List Word) (q : List Half) : (s.loadMemories p q).tokData = s.tokData := rfl
@[simp] theorem State.loadMemories_linesLocked (s : State) (p : List Word) (q : List Half) : (s.loadMemories p q).linesLocked = s.linesLocked := rfl
@[simp] theorem State.loadMemories_linesValid (s : State) (p : List Word) (q : List Half) : (s.loadMemories p q).linesValid = s.linesValid := rfl
@[simp] theorem State.loadMemories_owner (s : State) (p : List Word) (q : List Half) : (s.loadMemories p q).owner = s.owner := rfl
@[simp] theorem State.loadMemories_busCfg (s : State) (p : List Word) (q : List Half) : (s.loadMemories p q).busCfg = s.busCfg := rfl
@[simp] theorem State.loadMemories_savedCfg (s : State) (p : List Word) (q : List Half) : (s.loadMemories p q).savedCfg = s.savedCfg := rfl
@[simp] theorem State.loadMemories_txq (s : State) (p : List Word) (q : List Half) : (s.loadMemories p q).txq = s.txq := rfl
@[simp] theorem State.loadMemories_shifter (s : State) (p : List Word) (q : List Half) : (s.loadMemories p q).shifter = s.shifter := rfl
@[simp] theorem State.loadMemories_tcf (s : State) (p : List Word) (q : List Half) : (s.loadMemories p q).tcf = s.tcf := rfl
@[simp] theorem State.loadMemories_cs (s : State) (p : List Word) (q : List Half) : (s.loadMemories p q).cs = s.cs := rfl
@[simp] theorem State.loadMemories_wire (s : State) (p : List Word) (q : List Half) : (s.loadMemories p q).wire = s.wire := rfl
@[simp] theorem State.loadMemories_fromRun (s : State) (p : List Word) (q : List Half) : (s.loadMemories p q).fromRun = s.fromRun := rfl
@[simp] theorem State.loadMemories_schedule (s : State) (p : List Word) (q : List Half) : (s.loadMemories p q).schedule = s.schedule := rfl
@[simp] theorem State.loadMemories_policy (s : State) (p : List Word) (q : List Half) : (s.loadMemories p q).policy = s.policy := rfl
@[simp] theorem State.loadMemories_draws (s : State) (p : List Word) (q : List Half) : (s.loadMemories p q).draws = s.draws := rfl

/-! ### State.setSchedule -/

@[simp] theorem State.setSchedule_params (s : State) (ms : List Move) : (s.setSchedule ms).params = s.params := rfl
@[simp] theorem State.setSchedule_dmem (s : State) (ms : List Move) : (s.setSchedule ms).dmem = s.dmem := rfl
@[simp] theorem State.setSchedule_pmem (s : State) (ms : List Move) : (s.setSchedule ms).pmem = s.pmem := rfl
@[simp] theorem State.setSchedule_mode (s : State) (ms : List Move) : (s.setSchedule ms).mode = s.mode := rfl
@[simp] theorem State.setSchedule_dp (s : State) (ms : List Move) : (s.setSchedule ms).dp = s.dp := rfl
@[simp] theorem State.setSchedule_cur (s : State) (ms : List Move) : (s.setSchedule ms).cur = s.cur := rfl
@[simp] theorem State.setSchedule_fault (s : State) (ms : List Move) : (s.setSchedule ms).fault = s.fault := rfl
@[simp] theorem State.setSchedule_faultDp (s : State) (ms : List Move) : (s.setSchedule ms).faultDp = s.faultDp := rfl
@[simp] theorem State.setSchedule_tokCmd (s : State) (ms : List Move) : (s.setSchedule ms).tokCmd = s.tokCmd := rfl
@[simp] theorem State.setSchedule_tokData (s : State) (ms : List Move) : (s.setSchedule ms).tokData = s.tokData := rfl
@[simp] theorem State.setSchedule_linesLocked (s : State) (ms : List Move) : (s.setSchedule ms).linesLocked = s.linesLocked := rfl
@[simp] theorem State.setSchedule_linesValid (s : State) (ms : List Move) : (s.setSchedule ms).linesValid = s.linesValid := rfl
@[simp] theorem State.setSchedule_owner (s : State) (ms : List Move) : (s.setSchedule ms).owner = s.owner := rfl
@[simp] theorem State.setSchedule_busCfg (s : State) (ms : List Move) : (s.setSchedule ms).busCfg = s.busCfg := rfl
@[simp] theorem State.setSchedule_savedCfg (s : State) (ms : List Move) : (s.setSchedule ms).savedCfg = s.savedCfg := rfl
@[simp] theorem State.setSchedule_txq (s : State) (ms : List Move) : (s.setSchedule ms).txq = s.txq := rfl
@[simp] theorem State.setSchedule_shifter (s : State) (ms : List Move) : (s.setSchedule ms).shifter = s.shifter := rfl
@[simp] theorem State.setSchedule_tcf (s : State) (ms : List Move) : (s.setSchedule ms).tcf = s.tcf := rfl
@[simp] theorem State.setSchedule_cs (s : State) (ms : List Move) : (s.setSchedule ms).cs = s.cs := rfl
@[simp] theorem State.setSchedule_wire (s : State) (ms : List Move) : (s.setSchedule ms).wire = s.wire := rfl
@[simp] theorem State.setSchedule_fromRun (s : State) (ms : List Move) : (s.setSchedule ms).fromRun = s.fromRun := rfl
@[simp] theorem State.setSchedule_schedule (s : State) (ms : List Move) : (s.setSchedule ms).schedule = ms := rfl
@[simp] theorem State.setSchedule_policy (s : State) (ms : List Move) : (s.setSchedule ms).policy = s.policy := rfl
@[simp] theorem State.setSchedule_draws (s : State) (ms : List Move) : (s.setSchedule ms).draws = s.draws := rfl

/-! ### State.countDraw -/

@[simp] theorem State.countDraw_params (s : State) : s.countDraw.params = s.params := rfl
@[simp] theorem State.countDraw_dmem (s : State) : s.countDraw.dmem = s.dmem := rfl
@[simp] theorem State.countDraw_pmem (s : State) : s.countDraw.pmem = s.pmem := rfl
@[simp] theorem State.countDraw_mode (s : State) : s.countDraw.mode = s.mode := rfl
@[simp] theorem State.countDraw_dp (s : State) : s.countDraw.dp = s.dp := rfl
@[simp] theorem State.countDraw_cur (s : State) : s.countDraw.cur = s.cur := rfl
@[simp] theorem State.countDraw_fault (s : State) : s.countDraw.fault = s.fault := rfl
@[simp] theorem State.countDraw_faultDp (s : State) : s.countDraw.faultDp = s.faultDp := rfl
@[simp] theorem State.countDraw_tokCmd (s : State) : s.countDraw.tokCmd = s.tokCmd := rfl
@[simp] theorem State.countDraw_tokData (s : State) : s.countDraw.tokData = s.tokData := rfl
@[simp] theorem State.countDraw_linesLocked (s : State) : s.countDraw.linesLocked = s.linesLocked := rfl
@[simp] theorem State.countDraw_linesValid (s : State) : s.countDraw.linesValid = s.linesValid := rfl
@[simp] theorem State.countDraw_owner (s : State) : s.countDraw.owner = s.owner := rfl
@[simp] theorem State.countDraw_busCfg (s : State) : s.countDraw.busCfg = s.busCfg := rfl
@[simp] theorem State.countDraw_savedCfg (s : State) : s.countDraw.savedCfg = s.savedCfg := rfl
@[simp] theorem State.countDraw_txq (s : State) : s.countDraw.txq = s.txq := rfl
@[simp] theorem State.countDraw_shifter (s : State) : s.countDraw.shifter = s.shifter := rfl
@[simp] theorem State.countDraw_tcf (s : State) : s.countDraw.tcf = s.tcf := rfl
@[simp] theorem State.countDraw_cs (s : State) : s.countDraw.cs = s.cs := rfl
@[simp] theorem State.countDraw_wire (s : State) : s.countDraw.wire = s.wire := rfl
@[simp] theorem State.countDraw_fromRun (s : State) : s.countDraw.fromRun = s.fromRun := rfl
@[simp] theorem State.countDraw_schedule (s : State) : s.countDraw.schedule = s.schedule := rfl
@[simp] theorem State.countDraw_policy (s : State) : s.countDraw.policy = s.policy := rfl
@[simp] theorem State.countDraw_draws (s : State) : s.countDraw.draws = s.draws + 1 := rfl

end Sys2Proof.Machine
end

