-- ==== Sys2Proof/Laws/Ops.lean ====
section
/-! SUPPORT. What the shared operations can do, said once: the micro-operations, the sequencer's step on an operation, and
`exec` as that step. -/

namespace Sys2Proof.Machine

/-! ### Micro-operations -/

/-- Everything a performed micro-operation can have done. -/
theorem perform_done {u : Uop} {s t : State} (h : perform u s = .done t) :
    s.holds u = false ∧
    ((∃ sel src last v, u = .submit sel src last ∧ s.level < s.params.fifoDepth ∧ readSrc s src = some v ∧
        t = s.enqueue ⟨tokOf s sel, v, last⟩) ∨
      (u = .waitLe ∧ t = s) ∨
      (u = .clearTcf ∧ t = s.clearTcf) ∨
      (u = .waitEmpty ∧ t = s) ∨
      (u = .waitTcf ∧ t = s) ∨
      (u = .acquire ∧ s.quiescent = true ∧ t = s.openSession) ∨
      (∃ b, u = .release ∧ s.quiescent = true ∧ s.savedCfg = some b ∧ t = s.closeSession b) ∨
      (∃ tc td, u = .setLines true tc td ∧ t = s.installLines tc td) ∨
      (∃ tc td, u = .setLines false tc td ∧ t = s.lockLines)) := by
  unfold perform at h
  split at h
  · cases h
  · next hh =>
    refine ⟨by simpa using hh, ?_⟩
    cases u with
    | submit sel src last =>
      simp only [doSubmit] at h
      split at h
      · cases h
      · split at h
        · next v hv => cases h; exact .inl ⟨sel, src, last, v, rfl, by omega, hv, rfl⟩
        · cases h
    | waitLe => cases h; simp
    | clearTcf => cases h; simp
    | waitEmpty => cases h; simp
    | waitTcf => cases h; simp
    | acquire =>
      simp only [doAcquire] at h
      split at h
      · next q => cases h; simp [q]
      · cases h
    | release =>
      simp only [doRelease] at h
      split at h
      · next q =>
        split at h
        · next b hb => cases h; simp [q, hb]
        · cases h
      · cases h
    | setLines valid tc td =>
      cases valid <;> cases h <;> simp
    | stopRun => cases h

/-- Only STOP stops the run. -/
theorem perform_stopped {u : Uop} {s t : State} (h : perform u s = .stopped t) : u = .stopRun ∧ t = s.stop := by
  unfold perform at h
  split at h
  · cases h
  · cases u with
    | submit sel src last =>
      simp only [doSubmit] at h
      split at h
      · cases h
      · split at h <;> cases h
    | waitLe => cases h
    | clearTcf => cases h
    | waitEmpty => cases h
    | waitTcf => cases h
    | acquire => simp only [doAcquire] at h; split at h <;> cases h
    | release =>
      simp only [doRelease] at h
      split at h
      · split at h <;> cases h
      · cases h
    | setLines valid tc td => cases h
    | stopRun => cases h; exact ⟨rfl, rfl⟩

/-- The faults a micro-operation raises: SUBMIT into a full queue, ACQUIRE and RELEASE on a port that is not quiescent. -/
theorem perform_raised {u : Uop} {s : State} {c : FaultCode} (h : perform u s = .raised c) :
    s.holds u = false ∧
    ((∃ sel src last, u = .submit sel src last ∧ s.params.fifoDepth ≤ s.level ∧ c = .queueOverflow) ∨
      (u = .acquire ∧ s.quiescent = false ∧ c = .portNotIdle) ∨
      (u = .release ∧ s.quiescent = false ∧ c = .endWhileBusy)) := by
  unfold perform at h
  split at h
  · cases h
  · next hh =>
    refine ⟨by simpa using hh, ?_⟩
    cases u with
    | submit sel src last =>
      simp only [doSubmit] at h
      split at h
      · next q => cases h; exact .inl ⟨sel, src, last, rfl, q, rfl⟩
      · split at h <;> cases h
    | waitLe => cases h
    | clearTcf => cases h
    | waitEmpty => cases h
    | waitTcf => cases h
    | acquire =>
      simp only [doAcquire] at h
      split at h
      · cases h
      · next q => cases h; simp [q]
    | release =>
      simp only [doRelease] at h
      split at h
      · split at h <;> cases h
      · next q => cases h; simp [q]
    | setLines valid tc td => cases h
    | stopRun => cases h

/-- The stops of the model a micro-operation can meet. -/
theorem perform_stuck {u : Uop} {s : State} {f : Fault} (h : perform u s = .stuck f) :
    (∃ sel src last, u = .submit sel src last ∧ readSrc s src = none ∧ f = .pmemOutside) ∨
      (u = .release ∧ s.quiescent = true ∧ s.savedCfg = none ∧ f = .savedCfgUnwritten) := by
  unfold perform at h
  split at h
  · cases h
  · cases u with
    | submit sel src last =>
      simp only [doSubmit] at h
      split at h
      · cases h
      · split at h
        · cases h
        · next q => cases h; exact .inl ⟨sel, src, last, rfl, q, rfl⟩
    | waitLe => cases h
    | clearTcf => cases h
    | waitEmpty => cases h
    | waitTcf => cases h
    | acquire => simp only [doAcquire] at h; split at h <;> cases h
    | release =>
      simp only [doRelease] at h
      split at h
      · next q =>
        split at h
        · cases h
        · next b => cases h; exact .inr ⟨rfl, q, b, rfl⟩
      · cases h
    | setLines valid tc td => cases h
    | stopRun => cases h

/-- Only a micro-operation that holds is held. -/
theorem perform_held {u : Uop} {s : State} (h : perform u s = .held) : s.holds u = true := by
  unfold perform at h
  split at h
  · assumption
  · cases u with
    | submit sel src last =>
      simp only [doSubmit] at h
      split at h
      · cases h
      · split at h <;> cases h
    | waitLe => cases h
    | clearTcf => cases h
    | waitEmpty => cases h
    | waitTcf => cases h
    | acquire => simp only [doAcquire] at h; split at h <;> cases h
    | release =>
      simp only [doRelease] at h
      split at h
      · split at h <;> cases h
      · cases h
    | setLines valid tc td => cases h
    | stopRun => cases h

/-- A micro-operation that holds is not performed. -/
theorem perform_of_holds {u : Uop} {s : State} (h : s.holds u = true) : perform u s = .held := by
  simp [perform, h]

/-! ### `exec` is the sequencer's step -/

/-- Every meaning is the shared sequencer step with the operation's own static check and micro-operations. -/
theorem exec_eq (i : Instr) (s : State) : exec i s = sequencerOn i (staticCheck i s) (uopAt s.params i) s := by
  cases i <;> rfl

/-- In HALTED and FAULTED the sequencer has no step. -/
theorem exec_stopped (i : Instr) (s : State) (h : s.mode ≠ .run) : exec i s = .next s := by
  rw [exec_eq, sequencerOn]
  cases hm : s.mode <;> simp_all

/-- The DECODE step. -/
theorem exec_decode (i : Instr) (s : State) (hm : s.mode = .run) (hc : s.cur = none) :
    exec i s = .next (decodeStep i (staticCheck i s) s) := by
  rw [exec_eq]
  simp [sequencerOn, hm, hc]

/-- The EXEC step. -/
theorem exec_exec (i : Instr) (k : Nat) (s : State) (hm : s.mode = .run) (hc : s.cur = some ⟨i, k⟩) :
    exec i s = execStep i (uopAt s.params i) k s := by
  rw [exec_eq]
  simp [sequencerOn, hm, hc]

/-- Everything an EXEC step that answers a next state can have done. -/
theorem execStep_next {i : Instr} {uop : Nat → Option Uop} {k : Nat} {s t : State} (h : execStep i uop k s = .next t) :
    ∃ u, uop k = some u ∧
      ((∃ x, perform u s = .done x ∧ ((uop (k + 1)).isSome = true ∧ t = x.advance i k ∨
          (uop (k + 1)).isSome = false ∧ t = x.retire i.words)) ∨
        (u = .stopRun ∧ t = s.stop) ∨
        (s.holds u = true ∧ t = s) ∨
        (∃ c, perform u s = .raised c ∧ t = s.raise c)) := by
  unfold execStep at h
  split at h
  · cases h
  · next u hu =>
    refine ⟨u, hu, ?_⟩
    split at h
    · next x hx =>
      refine .inl ⟨x, hx, ?_⟩
      injection h with h
      subst h
      cases hn : (uop (k + 1)).isSome <;> simp
    · next x hx =>
      injection h with h
      subst h
      exact .inr (.inl (perform_stopped hx))
    · next hx =>
      injection h with h
      subst h
      exact .inr (.inr (.inl ⟨perform_held hx, rfl⟩))
    · next c hx =>
      injection h with h
      subst h
      exact .inr (.inr (.inr ⟨c, hx, rfl⟩))
    · cases h

/-- Everything `exec` can have done where it answers a next state: nothing, because the sequencer has no step; DECODE; EXEC. -/
theorem exec_next {i : Instr} {s t : State} (h : exec i s = .next t) :
    (s.mode ≠ .run ∧ t = s) ∨
    (s.mode = .run ∧ s.cur = none ∧
      ((staticCheck i s = none ∧ t = s.begin i) ∨ ∃ c, staticCheck i s = some c ∧ t = s.raise c)) ∨
    (∃ k, s.mode = .run ∧ s.cur = some ⟨i, k⟩ ∧ execStep i (uopAt s.params i) k s = .next t) := by
  rw [exec_eq, sequencerOn] at h
  cases hm : s.mode with
  | run =>
    rw [hm] at h
    cases hc : s.cur with
    | none =>
      rw [hc] at h
      refine .inr (.inl ⟨rfl, rfl, ?_⟩)
      injection h with h
      subst h
      cases hk : staticCheck i s with
      | none => exact .inl ⟨rfl, by simp [decodeStep]⟩
      | some c => exact .inr ⟨c, rfl, by simp [decodeStep]⟩
    | some a =>
      rw [hc] at h
      simp only at h
      split at h
      · next e => exact .inr (.inr ⟨a.k, rfl, by cases a; simp_all, h⟩)
      · cases h
  | halted => rw [hm] at h; injection h with h; exact .inl ⟨by simp, h.symm⟩
  | faulted => rw [hm] at h; injection h with h; exact .inl ⟨by simp, h.symm⟩

/-! ### The expansion of a pixel run -/

/-- A run of `count ≥ 1` pixels has `2 (count − 1) + 4` micro-operations. -/
theorem runUop_isSome (count : Nat) (pixel : Nat → Src) (k : Nat) (hc : count ≠ 0) :
    (runUop count pixel k).isSome = true ↔ k < 2 * (count - 1) + 4 := by
  unfold runUop unitC unitL16
  rw [if_neg hc]
  split
  · have : k % 2 < 2 := Nat.mod_lt _ (by omega)
    simp only [Option.isSome_iff_ne_none, ne_eq, List.getElem?_eq_none_iff, List.length_cons, List.length_nil]
    omega
  · simp only [Option.isSome_iff_ne_none, ne_eq, List.getElem?_eq_none_iff, List.length_cons, List.length_nil]
    omega

end Sys2Proof.Machine
end

