-- ==== Sys2Proof/Laws/PerInstr.lean ====
section
/-! SUPPORT. Statements for all instructions, one lemma per constructor of Instr. -/

namespace Sys2Proof.Laws

/-- An operation is one to three words long (30 R82). -/
theorem words_between (i : Instr) : 1 ≤ i.words ∧ i.words ≤ 3 := by
  cases i <;> simp [Instr.words, Instr.op, Op.words]

end Sys2Proof.Laws

namespace Sys2Proof.Laws.EncodedLength

/-- An operation is encoded in as many words as its OP gives it, and in one to three (30 R80, R82). -/
def Statement (i : Instr) : Prop := (encode i).length = i.words ∧ 1 ≤ i.words ∧ i.words ≤ 3

theorem sendb (sel : LineSel) (frm : Framing) (value : Byte) : Statement (.sendb sel frm value) :=
  ⟨rfl, words_between _⟩

theorem sendw (sel : LineSel) (frm : Framing) (value : Half) : Statement (.sendw sel frm value) :=
  ⟨rfl, words_between _⟩

theorem setwin (x0 y0 x1 y1 : Half) : Statement (.setwin x0 y0 x1 y1) :=
  ⟨rfl, words_between _⟩

theorem fill (color : Half) (count : Word) : Statement (.fill color count) :=
  ⟨rfl, words_between _⟩

theorem blit (base count : Word) : Statement (.blit base count) :=
  ⟨rfl, words_between _⟩

theorem sessbeg : Statement .sessbeg :=
  ⟨rfl, words_between _⟩

theorem sessend : Statement .sessend :=
  ⟨rfl, words_between _⟩

theorem initln (valid : Bool) (tc td : Half) : Statement (.initln valid tc td) :=
  ⟨rfl, words_between _⟩

theorem halt : Statement .halt :=
  ⟨rfl, words_between _⟩

end Sys2Proof.Laws.EncodedLength
end

