-- ==== Sys2Proof/Laws/Safety.lean ====
section
/-! SUPPORT. The invariants of Safety.lean as propositions, so that no proof unfolds a Bool. -/

namespace Sys2Proof.Machine

@[simp] theorem portIdle_iff (s : State) : s.portIdle = true ↔ s.txq = [] ∧ s.shifter = none := by
  unfold State.portIdle
  rw [Bool.and_eq_true, List.isEmpty_iff, Option.isNone_iff_eq_none]

@[simp] theorem quiescent_iff (s : State) : s.quiescent = true ↔ s.txq = [] ∧ s.shifter = none ∧ s.cs = false := by
  unfold State.quiescent
  rw [Bool.and_eq_true, portIdle_iff, Bool.not_eq_true', and_assoc]

theorem holds_waitLe (s : State) : s.holds .waitLe = true ↔ s.params.fullThreshold < s.txq.length := by
  unfold State.holds State.level
  exact decide_eq_true_iff

theorem holds_waitEmpty (s : State) : s.holds .waitEmpty = true ↔ s.txq ≠ [] := by
  unfold State.holds
  rw [Bool.not_eq_true', ← Bool.not_eq_true, List.isEmpty_iff]

theorem holds_waitTcf (s : State) : s.holds .waitTcf = true ↔ s.tcf = false := by
  simp [State.holds]

theorem holds_acquire (s : State) : s.holds .acquire = true ↔ s.owner ≠ .none := by
  unfold State.holds
  exact decide_eq_true_iff

theorem engineEnabled_iff (s : State) : s.engineEnabled = true ↔ s.shifter ≠ none ∨ s.txq ≠ [] := by
  unfold State.engineEnabled
  rw [Bool.or_eq_true, Option.isSome_iff_ne_none, Bool.not_eq_true', ← Bool.not_eq_true, List.isEmpty_iff]

theorem portOk_iff (s : State) :
    s.portOk = true ↔ s.txq.length ≤ s.params.fifoDepth ∧ (s.shifter = none ∨ s.cs = true) := by
  unfold State.portOk State.level
  rw [Bool.and_eq_true, decide_eq_true_iff, Bool.or_eq_true, Option.isNone_iff_eq_none]

theorem sessionOk_iff (s : State) :
    s.sessionOk = true ↔
      (s.owner = .self → s.savedCfg ≠ none ∧ s.busCfg = s.params.sessionCfg) ∧
        (s.owner ≠ .self → s.txq = [] ∧ s.shifter = none ∧ s.cs = false) := by
  unfold State.sessionOk
  by_cases h : s.owner = .self
  · rw [if_pos h, Bool.and_eq_true, Option.isSome_iff_ne_none, decide_eq_true_iff]
    exact ⟨fun e => ⟨fun _ => e, fun n => absurd h n⟩, fun e => e.1 h⟩
  · rw [if_neg h, quiescent_iff]
    exact ⟨fun e => ⟨fun n => absurd n h, fun _ => e⟩, fun e => e.2 h⟩

theorem linesOk_iff (s : State) :
    s.linesOk = true ↔
      (s.linesValid = true → s.linesLocked = true ∧ s.tokCmd ≠ s.tokData ∧ s.tokCmd ≠ s.params.sentinel ∧
        s.tokData ≠ s.params.sentinel) ∧
      (s.linesValid = false → s.tokCmd = s.params.sentinel ∧ s.tokData = s.params.sentinel) := by
  unfold State.linesOk
  cases h : s.linesValid
  · rw [if_neg (by simp), decide_eq_true_iff]
    exact ⟨fun e => ⟨fun n => absurd n (by simp), fun _ => e⟩, fun e => e.2 rfl⟩
  · rw [if_pos rfl, Bool.and_eq_true, decide_eq_true_iff]
    exact ⟨fun e => ⟨fun _ => e, fun n => absurd n (by simp)⟩, fun e => e.1 rfl⟩

theorem faultOk_iff (s : State) :
    s.faultOk = true ↔
      (s.mode = .faulted → 1 ≤ s.fault.toNat ∧ s.fault.toNat ≤ 14) ∧
        (s.mode ≠ .faulted → s.fault = 0 ∧ s.faultDp = 0) := by
  unfold State.faultOk
  by_cases h : s.mode = .faulted
  · rw [if_pos h, decide_eq_true_iff]
    exact ⟨fun e => ⟨fun _ => e, fun n => absurd h n⟩, fun e => e.1 h⟩
  · rw [if_neg h, decide_eq_true_iff]
    exact ⟨fun e => ⟨fun n => absurd n h, fun _ => e⟩, fun e => e.2 h⟩

theorem dpOk_iff (s : State) : s.dpOk = true ↔ s.dp ≤ s.params.dmemWords := by
  unfold State.dpOk
  exact decide_eq_true_iff

theorem progressOk_iff (s : State) :
    s.progressOk = true ↔
      (s.cur = none → s.mode = .halted → s.owner ≠ .self) ∧
        ∀ a, s.cur = some a → s.mode = .run ∧ uopAt s.params a.op a.k ≠ none ∧
          s.dp + a.op.words ≤ s.params.dmemWords ∧ staticCheck a.op s = none := by
  unfold State.progressOk
  cases h : s.cur with
  | none =>
    rw [decide_eq_true_iff]
    exact ⟨fun e => ⟨fun _ => e, fun a n => absurd n (by simp)⟩, fun e => e.1 rfl⟩
  | some a =>
    simp only [Bool.and_eq_true, decide_eq_true_iff, Option.isSome_iff_ne_none, Option.isNone_iff_eq_none]
    refine ⟨fun e => ⟨fun n => absurd n (by simp), fun b n => ?_⟩, fun e => ?_⟩
    · injection n with n
      subst n
      exact ⟨e.1.1.1, e.1.1.2, e.1.2, e.2⟩
    · have := e.2 a rfl
      exact ⟨⟨⟨this.1, this.2.1⟩, this.2.2.1⟩, this.2.2.2⟩

@[simp] theorem noneTagged_nil : noneTagged [] = true := rfl

@[simp] theorem noneTagged_cons (f : Frame) (fs : List Frame) :
    noneTagged (f :: fs) = true ↔ f.last = false ∧ noneTagged fs = true := by
  unfold noneTagged
  rw [List.all_cons, Bool.and_eq_true, Bool.not_eq_true']

theorem noneTagged_append (fs gs : List Frame) :
    noneTagged (fs ++ gs) = true ↔ noneTagged fs = true ∧ noneTagged gs = true := by
  unfold noneTagged
  rw [List.all_append, Bool.and_eq_true]

theorem awaiting_iff (s : State) (f : Frame) :
    s.awaiting f = true ↔
      (s.tcf = true → s.txq = [] ∧ s.shifter = none ∧ s.cs = false ∧ s.wire.getLast? = some ⟨f, s.busCfg⟩) ∧
        (s.tcf = false → s.outstanding.getLast? = some f ∧ noneTagged s.outstanding.dropLast = true) := by
  unfold State.awaiting
  cases h : s.tcf
  · rw [if_neg (by simp), Bool.and_eq_true, decide_eq_true_iff]
    exact ⟨fun e => ⟨fun n => absurd n (by simp), fun _ => e⟩, fun e => e.2 rfl⟩
  · rw [if_pos rfl, Bool.and_eq_true, decide_eq_true_iff, quiescent_iff]
    exact ⟨fun e => ⟨fun _ => ⟨e.1.1, e.1.2.1, e.1.2.2, e.2⟩, fun n => absurd n (by simp)⟩,
      fun e => have q := e.1 rfl; ⟨⟨q.1, q.2.1, q.2.2.1⟩, q.2.2.2⟩⟩

/-- What the handshake invariant asks where no unit is waited for: the level within the threshold, no outstanding frame
tagged. -/
def State.roomy (s : State) : Prop := s.txq.length ≤ s.params.fullThreshold ∧ noneTagged s.outstanding = true

/-- The handshake invariant, by the micro-operation the sequencer is at. -/
theorem handshakeOk_iff (s : State) :
    s.handshakeOk = true ↔
      match s.cur, s.curUop with
      | some _, some (.submit _ _ true) => s.roomy ∧ s.tcf = false
      | some _, some .waitLe => noneTagged s.outstanding = true
      | some a, some .waitEmpty => ∃ f, taggedFrame s a.op = some f ∧ s.awaiting f = true
      | some a, some .waitTcf => ∃ f, taggedFrame s a.op = some f ∧ s.awaiting f = true
      | _, _ => s.roomy := by
  unfold State.handshakeOk State.roomy State.level
  rcases s.cur with _ | a
  · simp only [Bool.and_eq_true, decide_eq_true_iff]
  · rcases s.curUop with _ | u
    · simp only [Bool.and_eq_true, decide_eq_true_iff]
    · rcases u with ⟨_, _, _ | _⟩ | _ | _ | _ | _ | _ | _ | _ | _ <;>
        simp only [Bool.and_eq_true, decide_eq_true_iff, Bool.not_eq_true', Option.any_eq_true]

/-! ### MemFrozen -/

theorem runEnds_eq_false_iff (s : State) :
    s.runEnds = false ↔ s.final = false ∧ ∀ m, nextMove s = some m → m.restarts = false := by
  unfold State.runEnds
  cases nextMove s <;> simp

/-- Under MemFrozen the memories keep their contents for as long as the run goes on. -/
theorem memFrozen_until {r : Nat → State} (h : MemFrozen r) {n : Nat} (k : Nat)
    (goesOn : ∀ j, j < k → (r (n + j)).runEnds = false) :
    (r (n + k)).dmem = (r n).dmem ∧ (r (n + k)).pmem = (r n).pmem := by
  induction k with
  | zero => exact ⟨rfl, rfl⟩
  | succ k ih =>
    obtain ⟨hd, hp⟩ := h (n + k) (goesOn k (by omega))
    obtain ⟨ihd, ihp⟩ := ih fun j hj => goesOn j (by omega)
    exact ⟨hd.trans ihd, hp.trans ihp⟩

end Sys2Proof.Machine
end

