-- ==== Sys2Proof/Laws/Step.lean ====
section
/-! SUPPORT. What one step can do, said once: the next move, acting on the state with the schedule moved on. -/

namespace Sys2Proof.Machine

/-! ### Moving the schedule on touches nothing else -/

/-- The policy's bookkeeping touches the schedule and the counter of free values only. -/
theorem usePolicy_eq (s : State) : ∃ ms d, usePolicy s = { s with schedule := ms, draws := d } := by
  unfold usePolicy
  split
  · split
    · exact ⟨s.schedule, s.draws, rfl⟩
    · exact ⟨s.schedule, s.draws + 1, rfl⟩
  · next moves _ => exact ⟨moves.tail, s.draws, rfl⟩
  · exact ⟨s.schedule, s.draws + 1, rfl⟩

/-- The next move's bookkeeping touches the schedule and the counter of free values only. -/
theorem useMove_eq (s : State) : ∃ ms d, useMove s = { s with schedule := ms, draws := d } := by
  unfold useMove
  split
  · next rest _ => exact ⟨rest, s.draws, rfl⟩
  · exact usePolicy_eq s

@[simp] theorem useMove_params (s : State) : (useMove s).params = s.params := by
  obtain ⟨ms, d, h⟩ := useMove_eq s
  rw [h]

@[simp] theorem useMove_dmem (s : State) : (useMove s).dmem = s.dmem := by
  obtain ⟨ms, d, h⟩ := useMove_eq s
  rw [h]

@[simp] theorem useMove_pmem (s : State) : (useMove s).pmem = s.pmem := by
  obtain ⟨ms, d, h⟩ := useMove_eq s
  rw [h]

@[simp] theorem useMove_mode (s : State) : (useMove s).mode = s.mode := by
  obtain ⟨ms, d, h⟩ := useMove_eq s
  rw [h]

@[simp] theorem useMove_dp (s : State) : (useMove s).dp = s.dp := by
  obtain ⟨ms, d, h⟩ := useMove_eq s
  rw [h]

@[simp] theorem useMove_cur (s : State) : (useMove s).cur = s.cur := by
  obtain ⟨ms, d, h⟩ := useMove_eq s
  rw [h]

@[simp] theorem useMove_fault (s : State) : (useMove s).fault = s.fault := by
  obtain ⟨ms, d, h⟩ := useMove_eq s
  rw [h]

@[simp] theorem useMove_faultDp (s : State) : (useMove s).faultDp = s.faultDp := by
  obtain ⟨ms, d, h⟩ := useMove_eq s
  rw [h]

@[simp] theorem useMove_tokCmd (s : State) : (useMove s).tokCmd = s.tokCmd := by
  obtain ⟨ms, d, h⟩ := useMove_eq s
  rw [h]

@[simp] theorem useMove_tokData (s : State) : (useMove s).tokData = s.tokData := by
  obtain ⟨ms, d, h⟩ := useMove_eq s
  rw [h]

@[simp] theorem useMove_linesLocked (s : State) : (useMove s).linesLocked = s.linesLocked := by
  obtain ⟨ms, d, h⟩ := useMove_eq s
  rw [h]

@[simp] theorem useMove_linesValid (s : State) : (useMove s).linesValid = s.linesValid := by
  obtain ⟨ms, d, h⟩ := useMove_eq s
  rw [h]

@[simp] theorem useMove_owner (s : State) : (useMove s).owner = s.owner := by
  obtain ⟨ms, d, h⟩ := useMove_eq s
  rw [h]

@[simp] theorem useMove_busCfg (s : State) : (useMove s).busCfg = s.busCfg := by
  obtain ⟨ms, d, h⟩ := useMove_eq s
  rw [h]

@[simp] theorem useMove_savedCfg (s : State) : (useMove s).savedCfg = s.savedCfg := by
  obtain ⟨ms, d, h⟩ := useMove_eq s
  rw [h]

@[simp] theorem useMove_txq (s : State) : (useMove s).txq = s.txq := by
  obtain ⟨ms, d, h⟩ := useMove_eq s
  rw [h]

@[simp] theorem useMove_shifter (s : State) : (useMove s).shifter = s.shifter := by
  obtain ⟨ms, d, h⟩ := useMove_eq s
  rw [h]

@[simp] theorem useMove_tcf (s : State) : (useMove s).tcf = s.tcf := by
  obtain ⟨ms, d, h⟩ := useMove_eq s
  rw [h]

@[simp] theorem useMove_cs (s : State) : (useMove s).cs = s.cs := by
  obtain ⟨ms, d, h⟩ := useMove_eq s
  rw [h]

@[simp] theorem useMove_wire (s : State) : (useMove s).wire = s.wire := by
  obtain ⟨ms, d, h⟩ := useMove_eq s
  rw [h]

@[simp] theorem useMove_fromRun (s : State) : (useMove s).fromRun = s.fromRun := by
  obtain ⟨ms, d, h⟩ := useMove_eq s
  rw [h]

@[simp] theorem useMove_policy (s : State) : (useMove s).policy = s.policy := by
  obtain ⟨ms, d, h⟩ := useMove_eq s
  rw [h]

/-! ### Who moves -/

/-- A scheduled move is the next one. -/
@[simp] theorem nextMove_scheduled (s : State) (m : Move) (ms : List Move) : nextMove (s.setSchedule (m :: ms)) = some m := rfl

/-- With nothing scheduled the eager policy chooses by what is enabled. -/
theorem nextMove_eager {s : State} (h : s.schedule = []) (p : s.policy = .eager) : nextMove s = eagerMove s := by
  rw [nextMove, h, policyMove, p]

/-- With nothing scheduled a repeated list starts again at its head. -/
theorem nextMove_repeated {s : State} {m : Move} {ms : List Move} (h : s.schedule = []) (p : s.policy = .repeated (m :: ms)) :
    nextMove s = some m ∧ useMove s = s.setSchedule ms := by
  simp [nextMove, useMove, policyMove, usePolicy, h, p]

/-! ### One step -/

/-- Everything a step can have done: the next move, or nothing. -/
theorem step_next {s t : State} (h : step s = .next t) :
    (∃ m, nextMove s = some m ∧ takeMove m (useMove s) = .next t) ∨ (nextMove s = none ∧ t = s) := by
  unfold step oneStep at h
  split at h
  · next m hm => exact .inl ⟨m, hm, h⟩
  · next hm => injection h with h; exact .inr ⟨hm, h.symm⟩

/-- A step of the sequencer. -/
theorem step_sequencer {s : State} (h : nextMove s = some .sequencer) : step s = sequencerStep (useMove s) := by
  simp [step, oneStep, h, takeMove]

/-- A step of the engine. -/
theorem step_engine {s : State} (h : nextMove s = some .engine) : step s = .next (engineStep (useMove s)) := by
  simp [step, oneStep, h, takeMove]

/-- Everything a step of the sequencer can have done. -/
theorem sequencerStep_next {s t : State} (h : sequencerStep s = .next t) :
    (s.mode ≠ .run ∧ t = s) ∨
    (∃ a, s.mode = .run ∧ s.cur = some a ∧ exec a.op s = .next t) ∨
    (∃ i rest, s.mode = .run ∧ s.cur = none ∧ decode (fetchWords s) = .ok i rest ∧ exec i s = .next t) ∨
    (∃ e, s.mode = .run ∧ s.cur = none ∧ decode (fetchWords s) = .error e ∧ t = s.raise (decodeFault e)) := by
  unfold sequencerStep at h
  cases hm : s.mode with
  | run =>
    rw [hm] at h
    cases hc : s.cur with
    | some a => rw [hc] at h; exact .inr (.inl ⟨a, rfl, rfl, h⟩)
    | none =>
      rw [hc] at h
      simp only at h
      cases hd : decode (fetchWords s) with
      | ok i rest => rw [hd] at h; exact .inr (.inr (.inl ⟨i, rest, rfl, rfl, rfl, h⟩))
      | error e =>
        rw [hd] at h
        injection h with h
        exact .inr (.inr (.inr ⟨e, rfl, rfl, rfl, h.symm⟩))
  | halted => rw [hm] at h; injection h with h; exact .inl ⟨by simp, h.symm⟩
  | faulted => rw [hm] at h; injection h with h; exact .inl ⟨by simp, h.symm⟩

/-- A running sequencer without an enabled step is at a micro-operation that holds. -/
theorem holds_of_not_enabled {s : State} (hm : s.mode = .run) (he : s.sequencerEnabled = false) :
    ∃ a u, s.cur = some a ∧ uopAt s.params a.op a.k = some u ∧ s.holds u = true := by
  cases hc : s.cur with
  | none => simp [State.sequencerEnabled, State.curUop, hm, hc] at he
  | some a =>
    cases hu : uopAt s.params a.op a.k with
    | none => simp [State.sequencerEnabled, State.curUop, hm, hc, hu] at he
    | some u => exact ⟨a, u, rfl, hu, by simpa [State.sequencerEnabled, State.curUop, hm, hc, hu] using he⟩

/-- A hold: the sequencer's move answers the same state (log 14). -/
theorem sequencerStep_held {s : State} (hm : s.mode = .run) (he : s.sequencerEnabled = false) : sequencerStep s = .next s := by
  obtain ⟨⟨i, k⟩, u, hc, hu, hh⟩ := holds_of_not_enabled hm he
  simp only [sequencerStep, hm, hc, exec_exec i k s hm hc, execStep, hu, perform_of_holds hh]

/-- Everything a step of the engine can have done: FINISH, START, or nothing. -/
theorem engineStep_cases (s : State) :
    (∃ f, s.shifter = some f ∧ engineStep s = s.finishShift f) ∨
    (∃ f rest, s.shifter = none ∧ s.txq = f :: rest ∧ engineStep s = s.startShift f rest) ∨
    (s.shifter = none ∧ s.txq = [] ∧ engineStep s = s) := by
  unfold engineStep
  cases hs : s.shifter with
  | some f => exact .inl ⟨f, rfl, rfl⟩
  | none =>
    cases hq : s.txq with
    | cons f rest => exact .inr (.inl ⟨f, rest, rfl, rfl, rfl⟩)
    | nil => exact .inr (.inr ⟨rfl, rfl, rfl⟩)

end Sys2Proof.Machine
end

