-- ==== Sys2Proof/Laws/View.lean ====
section
/-! SUPPORT. The controller view frame by frame and byte by byte: what a frame does to it, and that apart from losing the frame
memory it is a function of the controller's byte stream. -/

namespace Sys2Proof.Machine

/-- The view with the frame memory taken as lost, or as not lost. -/
def View.setLost (b : Bool) (v : View) : View := { v with lost := b }

@[simp] theorem View.setLost_setLost (a b : Bool) (v : View) : (v.setLost a).setLost b = v.setLost b := rfl
@[simp] theorem View.setLost_lost (b : Bool) (v : View) : (v.setLost b).lost = b := rfl
@[simp] theorem View.setLost_isOpen (b : Bool) (v : View) : (v.setLost b).isOpen = v.isOpen := rfl
@[simp] theorem View.setLost_cx (b : Bool) (v : View) : (v.setLost b).cx = v.cx := rfl
@[simp] theorem View.setLost_cy (b : Bool) (v : View) : (v.setLost b).cy = v.cy := rfl
@[simp] theorem View.setLost_half (b : Bool) (v : View) : (v.setLost b).half = v.half := rfl
@[simp] theorem View.setLost_cells (b : Bool) (v : View) : (v.setLost b).cells = v.cells := rfl
@[simp] theorem View.setLost_command (b : Bool) (v : View) : (v.setLost b).command = v.command := rfl
@[simp] theorem View.setLost_params (b : Bool) (v : View) : (v.setLost b).params = v.params := rfl

theorem forgetNamed_setLost (p : Params) (c : Byte) (b : Bool) (v : View) :
    (v.setLost b).forgetNamed p c = (v.forgetNamed p c).setLost b := rfl

theorem bounds_setLost (p : Params) (b : Bool) (v : View) : (v.setLost b).bounds p = v.bounds p := rfl

theorem addressByte_setLost (p : Params) (c x : Byte) (b : Bool) (v : View) :
    (v.setLost b).addressByte p c x = (v.addressByte p c x).setLost b := by
  unfold View.addressByte
  rw [View.setLost_params]
  dsimp only
  split <;> rfl

theorem pixelByte_setLost (p : Params) (x : Byte) (b : Bool) (v : View) :
    ∃ c, (v.setLost b).pixelByte p x = (v.pixelByte p x).setLost c := by
  unfold View.pixelByte
  rw [bounds_setLost, View.setLost_isOpen, View.setLost_half]
  cases v.isOpen with
  | false => exact ⟨true, rfl⟩
  | true =>
    cases v.bounds p with
    | none => exact ⟨true, rfl⟩
    | some w =>
      rw [View.setLost_cx, View.setLost_cy]
      cases v.cx with
      | none => exact ⟨true, rfl⟩
      | some cx =>
        cases v.cy with
        | none => exact ⟨true, rfl⟩
        | some cy => cases v.half <;> exact ⟨b, rfl⟩

theorem commandByte_setLost (p : Params) (x : Byte) (b : Bool) (v : View) :
    ∃ c, (v.setLost b).commandByte p x = (v.commandByte p x).setLost c := by
  refine ⟨b || v.half.isSome, ?_⟩
  unfold View.commandByte
  dsimp only
  split
  · rfl
  · split <;> rfl

theorem dataByte_setLost (p : Params) (x : Byte) (b : Bool) (v : View) :
    ∃ c, (v.setLost b).dataByte p x = (v.dataByte p x).setLost c := by
  unfold View.dataByte
  rw [View.setLost_command]
  cases v.command with
  | none => exact ⟨true, rfl⟩
  | some c =>
    dsimp only
    rw [addressByte_setLost, ← apply_ite (View.setLost b)]
    split
    · exact pixelByte_setLost p x b _
    · exact ⟨b, rfl⟩

/-- What a byte does, apart from losing the memory, does not depend on whether the memory is lost already. -/
theorem receive_setLost (p : Params) (b : Bool) (v : View) (kb : LineSel × Byte) :
    ∃ c, (v.setLost b).receive p kb = (v.receive p kb).setLost c :=
  match kb with
  | (.cmd, x) => commandByte_setLost p x b v
  | (.data, x) => dataByte_setLost p x b v

theorem receiveAll_setLost (p : Params) (bytes : List (LineSel × Byte)) (b : Bool) (v : View) :
    ∃ c, bytes.foldl (View.receive p) (v.setLost b) = (bytes.foldl (View.receive p) v).setLost c := by
  induction bytes generalizing b v with
  | nil => exact ⟨b, rfl⟩
  | cons kb rest ih =>
    obtain ⟨c, h⟩ := receive_setLost p b v kb
    rw [List.foldl_cons, List.foldl_cons, h]
    exact ih c _

/-- A frame that is no stray run is just its bytes (20 R63). -/
theorem receiveFrame_of_not_stray {p : Params} {sel : LineSel} {run : Bool} {f : Frame} {v : View} (h : v.strayRun run = false) :
    v.receiveFrame p sel run f = (f.kindBytes sel).foldl (View.receive p) v := by
  unfold View.receiveFrame
  rw [h, Bool.or_false]

/-- A frame no run sent is no stray run. -/
theorem strayRun_other (v : View) : v.strayRun false = false := rfl

/-- No frame is a stray run while the window is open. -/
theorem strayRun_open {run : Bool} {v : View} (h : v.isOpen = true) : v.strayRun run = false := by
  simp [View.strayRun, h]

/-- One frame more on the wire is received after the others. -/
theorem controllerView_append {s : State} {front : List WireFrame} {f : WireFrame} (h : s.wire = front ++ [f]) :
    controllerView s = (controllerView { s with wire := front }).receiveAt s (f, front.length) := by
  unfold controllerView
  rw [h, List.zipIdx_append, List.foldl_append]
  simp only [List.zipIdx_cons, List.zipIdx_nil, List.foldl_cons, List.foldl_nil, Nat.zero_add]
  rfl

/-- Apart from losing the memory, the view is what the controller's byte stream makes of the start (20 R63). -/
theorem controllerView_bytes (s : State) :
    ∃ c, controllerView s = ((controllerBytes s).foldl (View.receive s.params) View.start).setLost c := by
  unfold controllerView controllerBytes
  suffices h : ∀ (fs : List WireFrame) (k : Nat) (b : Bool) (v : View),
      ∃ c, (fs.zipIdx k).foldl (View.receiveAt s) (v.setLost b) =
        (((fs.filter (delivered s)).flatMap fun f => f.frame.kindBytes (lineOf s f)).foldl (View.receive s.params) v).setLost c from
    h _ 0 false View.start
  intro fs
  induction fs with
  | nil => exact fun k b v => ⟨b, rfl⟩
  | cons f fs ih =>
    intro k b v
    rw [List.zipIdx_cons, List.foldl_cons, List.filter_cons]
    unfold View.receiveAt
    cases delivered s f with
    | false => exact ih (k + 1) b v
    | true =>
      obtain ⟨c, h⟩ := receiveAll_setLost s.params (f.frame.kindBytes (lineOf s f))
        (b || (v.setLost b).strayRun (s.fromRun.getD k false)) v
      have frame : (v.setLost b).receiveFrame s.params (lineOf s f) (s.fromRun.getD k false) f.frame = _ := h
      rw [if_pos rfl, if_pos rfl, frame, List.flatMap_cons, List.foldl_append]
      exact ih (k + 1) c _

end Sys2Proof.Machine
end

