-- ==== Sys2Proof/Tests/Slice0.lean ====
section
/-! SUPPORT. Tests of the model on fixed values taken from spec/, and one witness for the hypotheses of every statement. -/

open Sys2Proof Sys2Proof.Machine

namespace Sys2Proof.Tests

/-! ### Helpers -/

/-- The outcome is a next state of which `p` holds. -/
def nextIs (o : Host.Outcome State Fault Refusal) (p : State → Bool) : Bool :=
  match o with
  | .next s => p s
  | .fault _ => false
  | .refused _ => false

/-- The outcome is a stop of the model with this fault. -/
def faultIs (o : Host.Outcome State Fault Refusal) (f : Fault) : Bool :=
  match o with
  | .next _ => false
  | .fault g => decide (g = f)
  | .refused _ => false

/-- The outcome is a refusal. -/
def refusedIs (o : Host.Outcome State Fault Refusal) (r : Refusal) : Bool :=
  match o with
  | .next _ => false
  | .fault _ => false
  | .refused q => decide (q = r)

/-- A status register reads as `w`. -/
def statusIs (o : Except Refusal Word) (w : Word) : Bool :=
  match o with
  | .ok v => decide (v = w)
  | .error _ => false

/-- The block faulted with code `c` and `fault_dp = a`. -/
def faultedWith (c : BitVec 8) (a : Word) (s : State) : Bool :=
  decide (s.mode = .faulted) && decide (s.fault = c) && decide (s.faultDp = a) && decide (s.cur = none)

/-- The parameters of 95 §0. -/
def vectorParams : Params := { Params.default with dmemWords := 64, pmemSize := 32 }

/-- A state after reset with these words from DMEM address `a` on, the sequencer at `a`. -/
def atWords (a : Nat) (ws : List Word) : State :=
  { State.reset with params := vectorParams, dmem := Mem.load 64 a ws [], dp := a }

/-- A state with a session open and the tokens 3 and 1 installed (95 §0). -/
def inSession (s : State) : State :=
  { s with
    owner := .self, busCfg := s.params.sessionCfg, savedCfg := some s.params.initBusCfg, linesLocked := true,
    linesValid := true, tokCmd := 3, tokData := 1 }

/-- A state in a session, at micro-operation k of i. -/
def atK (i : Instr) (k : Nat) : State := { inSession (atWords 0 (encode i)) with cur := some ⟨i, k⟩ }

/-- A data frame of a 16-bit value. -/
def dataFrame (v : Half) (last : Bool) : Frame := ⟨1, .half v, last⟩

/-! ### Well-formedness: each check refuses an ill-formed term -/

theorem test_wf_defaults : Params.default.wf = true := by decide

theorem test_wf_vectors : vectorParams.wf = true := by decide

theorem test_wf_refuses_threshold_at_depth : (Params.queueWf { Params.default with fullThreshold := 4 }) = false := by decide

theorem test_wf_refuses_depth_256 : (Params.queueWf { Params.default with fifoDepth := 256 }) = false := by decide

theorem test_wf_refuses_no_dmem : (Params.memoryWf { Params.default with dmemWords := 0 }) = false := by decide

theorem test_wf_refuses_long_dmem : (Params.memoryWf { Params.default with dmemWords := 4294967297 }) = false := by decide

theorem test_wf_refuses_long_pmem : (Params.memoryWf { Params.default with pmemSize := 4294967297 }) = false := by decide

theorem test_wf_refuses_launch_outside : (Params.memoryWf { vectorParams with launchDp := 64 }) = false := by decide

theorem test_wf_refuses_no_column : (Params.controllerWf { Params.default with ctrlW := 0 }) = false := by decide

theorem test_wf_refuses_no_row : (Params.controllerWf { Params.default with ctrlH := 0 }) = false := by decide

theorem test_wf_refuses_parts :
    (Params.wf { Params.default with fullThreshold := 4 }) = false ∧
    (Params.wf { Params.default with dmemWords := 0 }) = false ∧
    (Params.wf { Params.default with ctrlW := 0 }) = false := by decide

theorem test_descriptor_refuses_nothing : wellFormedDescriptor [] = false := by decide

theorem test_descriptor_refuses_reserved_bit : wellFormedDescriptor [0x00000041] = false := by decide

theorem test_descriptor_refuses_length :
    wellFormedDescriptor [0xF8000004] = false ∧ wellFormedDescriptor [0xF8000004, 6, 0] = false ∧
    wellFormedDescriptor [0xF8000004, 6] = true := by decide

/-- No header fits two rows of the opcode table: two rows differ in a bit both fix. -/
theorem test_table_rows_exclude_each_other :
    opcodeTable.Pairwise fun a b => a.matchBits &&& b.mask ≠ b.matchBits &&& a.mask := by decide

/-! ### Decoding: words of 95 §2.1 and §3 that no statement names -/

theorem test_decode_sendb : decode [0x00480021, 7] = .ok (.sendb .data .last 0x48) [7] := by decide

theorem test_decode_sendw : decode [0xFFFF0032] = .ok (.sendw .cmd .last 0xFFFF) [] := by decide

theorem test_decode_setwin : decode [0x00000003, 0x00030005, 0x00020007] = .ok (.setwin 5 7 3 2) [] := by decide

theorem test_decode_fill : decode [0x07E00004, 0x00000001] = .ok (.fill 0x07E0 1) [] := by decide

theorem test_decode_blit : decode [0x00000005, 0x00000002, 0x00000000] = .ok (.blit 0 2) [] := by decide

theorem test_decode_initln : decode [0x00000008, 0x00010003] = .ok (.initln false 3 1) [] := by decide

theorem test_encode_p2 :
    [Instr.initln true 3 1, .sessbeg, .sendb .cmd .last 0x29, .setwin 0 5 2 5, .blit 0x10 3, .sessend, .halt].flatMap encode =
      [0x00000018, 0x00010003, 0x00000006, 0x00290031, 0x00000003, 0x00020000, 0x00050005, 0x00000005, 0x00000003,
       0x00000010, 0x00000007, 0x0000000F] := by decide

/-- E1, E2, E3. -/
theorem test_decode_illegal :
    decode [0x00000000] = .error .illegalOp ∧ decode [0x0000000C] = .error .illegalOp ∧
    decode [0x00000010] = .error .illegalOp := by decide

/-- E4 to E10 and E20. -/
theorem test_decode_reserved :
    ([ [0x00000041], [0x01290001], [0x00000013, 0, 0], [0x00000024, 1], [0x00000016], [0x0000001F],
       [0x00000038, 0x00010003], [0x0000FFC2] ] : List (List Word)).all
      (fun ws => decide (decode ws = .error .reservedField)) = true := by decide

/-- The numbering of spec/opcode_table.json: a later word's bits count on from the first word's. -/
theorem test_table_word :
    decodeTableWord 96 0x00160014000B000A00000003 = some (.setwin 10 20 11 22) ∧ decodeTableWord 32 0x0000000F = some .halt ∧
    decodeTableWord 32 0x00000003 = some (.setwin 0 0 0 0) := by decide

/-! ### Fetch: the steps of 95 §2.1 -/

/-- E11: FILL at word 63 needs two words. -/
theorem test_fetch_length : nextIs (step (atWords 63 [0xF8000004])) (faultedWith 3 63) = true := by decide

/-- E12: OP is checked before the length. -/
theorem test_fetch_illegal_first : nextIs (step (atWords 63 [0x00000000])) (faultedWith 1 63) = true := by decide

/-- E13: BLIT needs three words. -/
theorem test_fetch_blit : nextIs (step (inSession (atWords 62 [0x00000005, 1]))) (faultedWith 3 62) = true := by decide

/-- E14: one word fits at the last address. -/
theorem test_fetch_fits : nextIs (step (atWords 63 [0x0000000F])) (fun t => t.cur = some ⟨.halt, 0⟩) = true := by decide

/-- E15: `dp` at the end of DMEM. -/
theorem test_fetch_end : nextIs (step (atWords 64 [])) (faultedWith 3 64) = true := by decide

/-- A descriptor placed by `withFetchWord` is what the next step runs, from reset. -/
theorem test_with_fetch_word :
    nextIs (step (State.reset.withFetchWord 64 0x0001000300000018)) (fun t => t.cur = some ⟨.initln true 3 1, 0⟩) = true := by
  decide

/-- From reset with nothing placed the first step faults IllegalOp: OP 0 (30 R86; log 7, 23). -/
theorem test_reset_first_step : nextIs (step State.reset) (faultedWith 1 0) = true := by decide

/-! ### One step of each operation -/

/-- E16: NoSession. -/
theorem test_sendw_no_session : nextIs (step (atWords 0 [0x12340002])) (faultedWith 4 0) = true := by decide

/-- T2: SUBMIT of SENDW. -/
theorem test_sendw_submit :
    nextIs (exec (.sendw .data .cont 0x1234) (atK (.sendw .data .cont 0x1234) 0))
      (fun t => t.txq = [dataFrame 0x1234 false] && t.cur = some ⟨.sendw .data .cont 0x1234, 1⟩ && t.dp = 0) = true := by
  decide

/-- T6: SUBMIT of SENDB in LAST framing. -/
theorem test_sendb_submit :
    nextIs (exec (.sendb .cmd .last 0x29) (atK (.sendb .cmd .last 0x29) 1))
      (fun t => t.txq = [⟨3, .byte 0x29, true⟩] && t.tcf = false) = true := by decide

/-- 40 R108: WAIT_TCF holds. -/
theorem test_sendb_holds :
    nextIs (exec (.sendb .cmd .last 0x29) (atK (.sendb .cmd .last 0x29) 2))
      (fun t => t = atK (.sendb .cmd .last 0x29) 2) = true := by decide

/-- W2: the third frame is x1, unchecked. -/
theorem test_setwin_x1 :
    nextIs (exec (.setwin 5 7 3 2) (atK (.setwin 5 7 3 2) 4)) (fun t => t.txq = [dataFrame 3 false]) = true := by decide

/-- SETWIN retires after its seventh unit, three words on. -/
theorem test_setwin_retires :
    nextIs (exec (.setwin 5 7 3 2) (atK (.setwin 5 7 3 2) 13)) (fun t => t.cur = none && t.dp = 3) = true := by decide

/-- S2: the last frame of `FILL c, 5` is tagged; it is micro-operation 9 of 12. -/
theorem test_fill_last :
    nextIs (exec (.fill 7 5) (atK (.fill 7 5) 9)) (fun t => t.txq = [dataFrame 7 true]) = true ∧
    nextIs (exec (.fill 7 5) { atK (.fill 7 5) 11 with tcf := true }) (fun t => t.cur = none && t.dp = 2) = true := by decide

/-- E18, E17: ZeroLengthRun, and NoSession before it. -/
theorem test_fill_zero :
    nextIs (step (inSession (atWords 0 [0x00000004]))) (faultedWith 8 0) = true ∧
    nextIs (step (atWords 0 [0x00000004])) (faultedWith 4 0) = true := by decide

/-- S4, S5: the boundary of the source range. -/
theorem test_blit_range :
    nextIs (exec (.blit 30 2) (inSession (atWords 0 []))) (fun t => t.cur = some ⟨.blit 30 2, 0⟩) = true ∧
    nextIs (exec (.blit 31 2) (inSession (atWords 0 []))) (faultedWith 9 0) = true ∧
    nextIs (exec (.blit 0xFFFFFFFF 1) (inSession (atWords 0 []))) (faultedWith 9 0) = true := by decide

/-- S3: the second frame of `BLIT 0, 2` is PMEM[1], tagged. -/
theorem test_blit_submit :
    nextIs (exec (.blit 0 2) { atK (.blit 0 2) 3 with pmem := [(0, 0x1234), (1, 0x5678)] })
      (fun t => t.txq = [dataFrame 0x5678 true]) = true := by decide

/-- The worked example of 43 R160. -/
theorem test_sessbeg :
    nextIs (exec .sessbeg { atWords 0 [6] with cur := some ⟨.sessbeg, 0⟩ })
      (fun t => t.owner = .self && t.savedCfg = some ⟨0⟩ && t.busCfg = ⟨1⟩ && t.dp = 1) = true := by decide

/-- K2: SessionReentry. -/
theorem test_sessbeg_reentry : nextIs (step (inSession (atWords 1 [6]))) (faultedWith 5 1) = true := by decide

/-- K3: SessionNotOpen. -/
theorem test_sessend_not_open : nextIs (step (atWords 0 [7])) (faultedWith 6 0) = true := by decide

/-- W6: EndWhileBusy while chip select is asserted. -/
theorem test_sessend_busy :
    nextIs (exec .sessend { inSession (atWords 4 [7]) with cur := some ⟨.sessend, 0⟩, cs := true }) (faultedWith 7 4) = true := by
  decide

/-- The worked example of 43 R163. -/
theorem test_initln :
    nextIs (exec (.initln true 3 1) { atWords 0 [] with cur := some ⟨.initln true 3 1, 0⟩ })
      (fun t => t.tokCmd = 3 && t.tokData = 1 && t.linesValid && t.linesLocked && t.dp = 2) = true := by decide

/-- K5, K6, K7, K8. -/
theorem test_initln_checks :
    nextIs (step (atWords 0 [0x00000018, 0x00030003])) (faultedWith 11 0) = true ∧
    nextIs (step (atWords 0 [0x00000018, 0x00010000])) (faultedWith 11 0) = true ∧
    nextIs (step (atWords 0 [0x00000008, 0x00030003])) (fun t => t.cur = some ⟨.initln false 3 3, 0⟩) = true ∧
    nextIs (step (inSession (atWords 2 [0x00000018, 0x00010003]))) (faultedWith 10 2) = true := by decide

/-- K4: HaltInSession. -/
theorem test_halt_in_session : nextIs (step (inSession (atWords 1 [0xF]))) (faultedWith 14 1) = true := by decide

/-- The worked example of 43 R165. -/
theorem test_halt :
    nextIs (exec .halt { atWords 9 [0xF] with cur := some ⟨.halt, 0⟩ }) (fun t => t.mode = .halted && t.dp = 9 && t.final) = true := by
  decide

/-- T5: QueueOverflow under a broken configuration keeps the queue. -/
theorem test_overflow :
    nextIs
      (exec (.sendw .data .cont 3)
        { atK (.sendw .data .cont 3) 0 with
          params := { vectorParams with fifoDepth := 2, fullThreshold := 2 },
          dp := 12, txq := [dataFrame 1 false, dataFrame 2 false] })
      (fun t => faultedWith 12 12 t && t.txq = [dataFrame 1 false, dataFrame 2 false]) = true := by decide

/-! ### The engine, the host, the model's stops -/

/-- T1, steps 8 and 25: START raises chip select; FINISH of a tagged frame sets the flag and lets chip select fall. -/
theorem test_engine :
    nextIs (step { inSession (atWords 0 []) with schedule := [.engine], txq := [dataFrame 1 false] })
      (fun t => t.shifter = some (dataFrame 1 false) && t.txq = [] && t.cs) = true ∧
    nextIs (step { inSession (atWords 0 []) with schedule := [.engine], shifter := some (dataFrame 6 true), cs := true })
      (fun t => t.wire = [⟨dataFrame 6 true, ⟨1⟩⟩] && t.tcf && !t.cs) = true := by decide

/-- K1: SESSBEG holds while another consumer owns the bus; its release leaves what the move says. -/
theorem test_other_consumer :
    nextIs (exec .sessbeg { atWords 0 [6] with cur := some ⟨.sessbeg, 0⟩, owner := .other })
      (fun t => t.cur = some ⟨.sessbeg, 0⟩ && t.owner = .other) = true ∧
    nextIs (step { atWords 0 [6] with owner := .other, schedule := [.otherRelease ⟨9⟩ true] })
      (fun t => t.owner = .none && t.busCfg = ⟨9⟩ && t.tcf) = true := by decide

/-- A reset out of FAULTED, with another consumer on the bus (70 R230). -/
theorem test_reset_move :
    nextIs (step { atWords 5 [6] with mode := .faulted, fault := 3, faultDp := 5, schedule := [.reset true] })
      (fun t => t.mode = .run && t.fault = 0 && t.dp = 0 && t.owner = .other && t.dmem = [(5, 6)]) = true := by decide

/-- The status registers at the end of P1 and at the end of P3b (95 §3). -/
theorem test_status :
    statusIs (readStatus 0 { inSession (atWords 9 []) with owner := .none, mode := .halted, tcf := true }) 0x000000C9 = true ∧
    statusIs (readStatus 4 (inSession (atWords 9 []))) 0x00010003 = true ∧
    statusIs (readStatus 0 { atWords 4 [] with owner := .self, mode := .faulted, fault := 7, cs := true }) 0x00010026 = true := by
  decide

/-- The model's own stops, in states no run reaches (log 15, 16). -/
theorem test_model_stops :
    faultIs (exec .halt (atK .sessend 0)) .otherOperation = true ∧
    faultIs (exec .halt { atWords 0 [] with cur := some ⟨.halt, 1⟩ }) .noMicroOp = true ∧
    faultIs (exec (.blit 32 1) (atK (.blit 32 1) 1)) .pmemOutside = true ∧
    faultIs (exec .sessend { atK .sessend 0 with savedCfg := none }) .savedCfgUnwritten = true := by decide

/-- Host accesses the spec refuses (10 R35; 20 R50, R69). -/
theorem test_host_refusals :
    refusedIs (writeStatus 3 0 State.reset) (.statusWrite 3) = true ∧
    refusedIs (hostStoreDmem 0 1 State.reset) .memoryFrozen = true ∧
    refusedIs (hostStorePmem 32 1 { atWords 0 [] with mode := .halted }) (.hostAddress 32) = true ∧
    nextIs (hostStorePmem 31 1 { atWords 0 [] with mode := .halted }) (fun t => t.pmem = [(31, 1)]) = true := by decide

/-- Writing what an unlisted address reads as takes the entry off the list. -/
theorem test_memory_form :
    Mem.write (w := 16) [(1, 5), (3, 7)] 3 0 = [(1, 5)] ∧ Mem.write (w := 16) [(1, 5), (3, 7)] 2 6 = [(1, 5), (2, 6), (3, 7)] ∧
    Mem.wf (w := 16) [(3, 7), (1, 5)] = false ∧ Mem.wf (w := 16) [(1, 0)] = false ∧ Mem.wf (w := 16) [(1, 5), (3, 7)] = true := by
  decide

/-! ### The controller view and the assembler -/

/-- A wire log of these frames. -/
def wireOf (fs : List Frame) (s : State) : State := { s with wire := fs.map fun f => ⟨f, s.params.sessionCfg⟩ }

/-- P6: the pixel in the window, then one beyond its capacity. -/
theorem test_view_capacity :
    let s := inSession (atWords 0 [])
    (controllerView (wireOf (Claims.setwinFrames s 7 7 7 7 ++ [dataFrame 0xABCD true]) s)).cell s.params 7 7 = some 0xABCD ∧
    (controllerView (wireOf (Claims.setwinFrames s 7 7 7 7 ++ [dataFrame 0xABCD false, dataFrame 0xABCD true]) s)).cell s.params 7 7 =
      none := by decide

/-- W2: pixels in a window with XS > XE make the frame memory unknown. -/
theorem test_view_order :
    let s := inSession (atWords 0 [])
    (controllerView (wireOf (Claims.setwinFrames s 5 7 3 2 ++ [dataFrame 1 true]) s)).lost = true := by decide

/-- 20 R64, R65: a parameter byte after another command is that command's, and a later window gives values (log 27). -/
theorem test_view_other_command :
    let s := inSession (atWords 0 [])
    let other : List Frame := [⟨3, .byte 0x36, false⟩, ⟨1, .byte 0x48, true⟩]
    (controllerView (wireOf (Claims.setwinFrames s 7 7 7 7 ++ other) s)).lost = false ∧
    (controllerView (wireOf (Claims.setwinFrames s 7 7 7 7 ++ other) s)).cell s.params 7 7 = none ∧
    (controllerView (wireOf (other ++ Claims.setwinFrames s 7 7 7 7 ++ [dataFrame 0xABCD true]) s)).cell s.params 7 7 =
      some 0xABCD := by decide

/-- A pixel in its window, and then a bare column-set command with two 16-bit data frames. -/
def strayFrames (s : State) : List Frame :=
  Claims.setwinFrames s 7 7 7 7 ++ [dataFrame 0xABCD true, ⟨3, .byte 0x2A, false⟩, dataFrame 1 false, dataFrame 2 true]

/-- 42 R147, 20 R64: sent by a run, with no window open, the two frames make the frame memory unknown; sent by SENDW they are
parameters and lose nothing; either way they set XS (log 28). -/
theorem test_view_stray_run :
    let s := inSession (atWords 0 [])
    let run : State := { s with fromRun := List.replicate 9 false ++ [true, true] }
    (controllerView (wireOf (strayFrames s) run)).cell s.params 7 7 = none ∧
    (controllerView (wireOf (strayFrames s) run)).xs = some 1 ∧
    (controllerView (wireOf (strayFrames s) s)).cell s.params 7 7 = some 0xABCD ∧
    (controllerView (wireOf (strayFrames s) s)).xs = some 1 := by decide

/-- 20 R64 to R66: a window whose parameters were sent by LAST-framed SENDWs takes pixels as usual. -/
theorem test_view_manual_window :
    let s := inSession (atWords 0 [])
    (controllerView (wireOf [⟨3, .byte 0x2A, false⟩, dataFrame 7 false, dataFrame 7 true, ⟨3, .byte 0x2B, false⟩, dataFrame 7 false,
      dataFrame 7 true, ⟨3, .byte 0x2C, false⟩, dataFrame 0xABCD true] s)).cell s.params 7 7 = some 0xABCD := by decide

/-- 20 R65, R67: opened with unknown window registers, the cursor is unknown and pixel data loses the memory; opened by SETWIN, the
cursor is at (XS, YS), and a pixel at the row's end takes it to the next row (log 31). -/
theorem test_view_cursor :
    let s := inSession (atWords 0 [])
    let unset := controllerView (wireOf [⟨3, .byte 0x2C, false⟩] s)
    let lost := controllerView (wireOf [⟨3, .byte 0x2C, false⟩, dataFrame 1 true] s)
    let opened := controllerView (wireOf (Claims.setwinFrames s 7 8 7 9) s)
    let moved := controllerView (wireOf (Claims.setwinFrames s 7 8 7 9 ++ [dataFrame 1 true]) s)
    (unset.cx, unset.cy, unset.isOpen, unset.lost) = (none, none, true, false) ∧ lost.lost = true ∧
    (opened.cx, opened.cy) = (some 7, some 8) ∧ (moved.cx, moved.cy) = (some 7, some 9) := by decide

/-- The note of which frames a run submitted: FILL's SUBMIT notes one, SENDW's does not. -/
theorem test_run_is_noted :
    nextIs (exec (.fill 7 1) (atK (.fill 7 1) 1)) (fun t => t.fromRun = [true] && t.txq = [dataFrame 7 true]) = true ∧
    nextIs (exec (.sendw .data .last 7) (atK (.sendw .data .last 7) 1))
      (fun t => t.fromRun = [false] && t.txq = [dataFrame 7 true]) = true := by decide

/-- 41 R130: two windows, each with its run, keep both pixels. -/
theorem test_view_two_windows :
    let s := inSession (atWords 0 [])
    let v := controllerView (wireOf (Claims.setwinFrames s 7 7 7 7 ++ dataFrame 0xABCD true :: Claims.setwinFrames s 8 8 8 8 ++
      [dataFrame 0x1234 true]) s)
    v.cell s.params 7 7 = some 0xABCD ∧ v.cell s.params 8 8 = some 0x1234 := by decide

/-- X2, X4 and a refusal of 30 R91. -/
theorem test_assemble :
    assemble .cmdargs [.num 0x36, .num 0x48] = some [.sendb .cmd .cont 0x36, .sendb .data .last 0x48] ∧
    assemble .rect [.num 0, .num 0, .num 3, .num 2, .num 5] = some [.sessbeg, .setwin 0 0 2 1, .fill 5 6, .sessend] ∧
    assemble .hrun [.num 0xFFFF, .num 0, .num 2, .num 5] = none := by decide

/-- A line of source text, with a comment (30 R90). -/
theorem test_assemble_line :
    assembleLine "SENDB CMD, LAST, 0x29 ; on".toList = some [.sendb .cmd .last 0x29] ∧
    assembleLine "FILL 0xF800, 6".toList = some [.fill 0xF800 6] ∧ assembleLine "SENDB CMD, LAST, 256".toList = none := by decide

/-! ### The policies -/

/-- Only the sequencer ever moves: a stalled engine, other consumers that keep what they have (40 R119). -/
def stalled (s : State) : State := { s with schedule := [], policy := .repeated [.sequencer] }

/-- 40 R119: a stalled WAIT_LE holds, and the step leaves the very same state. -/
theorem test_stalled_wait_is_a_hang :
    (let s := stalled { atK (.sendb .data .cont 1) 1 with txq := [1, 2, 3, 4].map fun v => dataFrame v false };
      nextIs (step s) fun t => t = s) = true := by decide

/-- An empty repeated list moves nobody. -/
theorem test_nobody_moves :
    (let s : State := { atWords 0 [6] with policy := .repeated [] };
      nextIs (step s) fun t => t = s) = true := by decide

/-- 40 R112: with the whole SETWIN in a deep queue and no START, chip select has not risen at its retirement (log 29). -/
theorem test_setwin_retires_unstarted :
    (let s : State :=
        { atK (.setwin 9 8 7 6) 13 with
          params := { vectorParams with fifoDepth := 9, fullThreshold := 8 },
          txq := Claims.setwinFrames (inSession (atWords 0 [])) 9 8 7 6 };
      nextIs (exec (.setwin 9 8 7 6) s) (fun t => t.cur = none && !t.cs && !t.quiescent)) = true := by decide

/-! ### Witnesses: states and operands that meet each statement's hypotheses -/

/-- A state at micro-operation k of i, next to move by the sequencer. -/
def seqAtK (i : Instr) (k : Nat) : State := { atK i k with schedule := [.sequencer] }

/-- The queue one below its capacity, none tagged. -/
def threeFrames : List Frame := [dataFrame 1 false, dataFrame 2 false, dataFrame 3 false]

/-- A header row at the last place its descriptor fits, with one reserved bit set. -/
def reservedAt (op : BitVec 4) (len : Nat) : State :=
  { State.reset with params := { vectorParams with dmemWords := 64 }, dp := 64 - len, dmem := [(64 - len, place 0 op ||| 0x40)] }

theorem test_witness_EncodeOfDecodeIsTheWords : decode [0x00000007, 9] = .ok .sessend [9] := by decide

theorem test_witness_ReservedHeaderBitsFault :
    Claims.headers.all (fun r =>
      let s := reservedAt r.1 r.2.2
      decide (nextMove s = some .sequencer) && decide (Claims.between s) && decide (s.dp + r.2.2 ≤ s.params.dmemWords) &&
        decide ((s.dmem.read s.dp).extractLsb' 0 4 = r.1) && decide (s.dmem.read s.dp &&& r.2.1 ≠ 0)) = true := by decide

theorem test_witness_IllegalOpFaults :
    [0x0#32, 0x9#32, 0xA#32, 0xB#32, 0xC#32, 0xD#32, 0xFFFFFFFE#32].all (fun w =>
      let s := atWords 63 [w]
      decide (nextMove s = some .sequencer) && decide (Claims.between s) && decide (s.dp < s.params.dmemWords) &&
        decide ((s.dmem.read s.dp).extractLsb' 0 4 ∈ [0x0#4, 0x9#4, 0xA#4, 0xB#4, 0xC#4, 0xD#4, 0xE#4])) = true := by decide

theorem test_witness_FetchPastTheEndFaults :
    (nextMove (atWords 64 []) = some .sequencer ∧ Claims.between (atWords 64 []) ∧
      (atWords 64 []).params.dmemWords ≤ (atWords 64 []).dp) ∧
    (Claims.headers.filter fun r => decide (1 < r.2.2)).all (fun r =>
      let s := atWords (65 - r.2.2) [place 0 r.1]
      decide (nextMove s = some .sequencer) && decide (Claims.between s) && decide (s.dp < s.params.dmemWords) &&
        decide (s.params.dmemWords < s.dp + r.2.2) && decide ((s.dmem.read s.dp).extractLsb' 0 4 = r.1)) = true := by decide

theorem test_witness_StepRunsTheDecodedInstruction :
    nextMove (atWords 62 [0xF8000004, 6]) = some .sequencer ∧ Claims.between (atWords 62 [0xF8000004, 6]) ∧
    decode (fetchWords (atWords 62 [0xF8000004, 6])) = .ok (.fill 0xF800 6) [] := by decide

theorem test_witness_StepContinuesTheOperation :
    (nextMove (seqAtK .sessend 0) = some .sequencer ∧ (seqAtK .sessend 0).mode = .run ∧
      (seqAtK .sessend 0).cur = some ⟨.sessend, 0⟩) ∧
    (nextMove { seqAtK .sessend 0 with mode := .halted } = some .sequencer ∧
      (State.mode { seqAtK .sessend 0 with mode := .halted }) ≠ .run) := by decide

theorem test_witness_BusOperationsNeedASession :
    Claims.between State.reset ∧ State.reset.owner ≠ .self ∧
    [Instr.sendb .cmd .last 0, .sendw .data .cont 0, .setwin 0 0 0 0, .fill 0 0, .blit 0 0].all Claims.busOperation = true := by
  decide

theorem test_witness_ZeroLengthRunsFault :
    Claims.between (inSession (atWords 0 [])) ∧ (inSession (atWords 0 [])).owner = .self := by decide

theorem test_witness_BlitChecksItsSourceRange :
    let s := inSession (atWords 0 [])
    Claims.between s ∧ s.owner = .self ∧ (1 : Word) ≠ 0 ∧
    s.params.pmemSize < (32 : Word).toNat + (1 : Word).toNat ∧ (31 : Word).toNat + (1 : Word).toNat ≤ s.params.pmemSize ∧
    0 < (1 : Word).toNat := by decide

theorem test_witness_OperationsBegin :
    (Claims.between State.reset ∧ State.reset.owner ≠ .self ∧ State.reset.linesLocked = false ∧
      (3 : Half) ≠ 1 ∧ (3 : Half) ≠ State.reset.params.sentinel ∧ (1 : Half) ≠ State.reset.params.sentinel) ∧
    (let s := inSession (atWords 0 []);
      Claims.between s ∧ s.owner = .self ∧ (1 : Word) ≠ 0 ∧ (31 : Word).toNat + (1 : Word).toNat ≤ s.params.pmemSize) := by
  decide

/-- At micro-operation k of i, the queue one below its capacity. -/
def fullAtK (i : Instr) (k : Nat) : State := { atK i k with txq := threeFrames }

/-- At micro-operation k of i, the flag set. -/
def flagAtK (i : Instr) (k : Nat) : State := { atK i k with tcf := true }

theorem test_witness_SendOperationsRun :
    (∀ i ∈ [Instr.sendb .cmd .cont 5, .sendw .data .cont 5],
      Claims.atUop i 0 (fullAtK i 0) ∧ (fullAtK i 0).txq.length < (fullAtK i 0).params.fifoDepth ∧
      Claims.atUop i 1 (fullAtK i 1) ∧ (fullAtK i 1).txq.length ≤ (fullAtK i 1).params.fullThreshold) ∧
    (∀ i ∈ [Instr.sendb .cmd .last 5, .sendw .data .last 5],
      Claims.atUop i 0 (fullAtK i 0) ∧
      Claims.atUop i 1 (fullAtK i 1) ∧ (fullAtK i 1).txq.length < (fullAtK i 1).params.fifoDepth) ∧
    (Claims.atUop (.sendb .cmd .last 5) 2 (flagAtK (.sendb .cmd .last 5) 2) ∧ (flagAtK (.sendb .cmd .last 5) 2).tcf = true) ∧
    (Claims.atUop (.sendw .data .last 5) 2 (atK (.sendw .data .last 5) 2) ∧ (atK (.sendw .data .last 5) 2).txq = []) ∧
    (Claims.atUop (.sendw .data .last 5) 3 (flagAtK (.sendw .data .last 5) 3) ∧ (flagAtK (.sendw .data .last 5) 3).tcf = true) := by
  decide

theorem test_witness_SetwinSubmitsItsSevenFrames :
    (List.range 7).all (fun n =>
      let s := { atK (.setwin 9 8 7 6) (2 * n) with txq := threeFrames }
      let t := { atK (.setwin 9 8 7 6) (2 * n + 1) with txq := threeFrames }
      ((Claims.setwinFrames s 9 8 7 6)[n]?).isSome && decide (Claims.atUop (.setwin 9 8 7 6) (2 * n) s) &&
        decide (s.txq.length < s.params.fifoDepth) && decide (Claims.atUop (.setwin 9 8 7 6) (2 * n + 1) t) &&
        decide (t.txq.length ≤ t.params.fullThreshold)) = true := by decide

/-- The premises of `Claims.runSteps` for a run of three pixels, at its first and its last pixel. -/
abbrev runPremises (i : Instr) : Prop :=
  (0 + 1 < 3 ∧ Claims.atUop i 0 (fullAtK i 0) ∧ (fullAtK i 0).txq.length < (fullAtK i 0).params.fifoDepth) ∧
  (1 + 1 < 3 ∧ Claims.atUop i 3 (fullAtK i 3) ∧ (fullAtK i 3).txq.length ≤ (fullAtK i 3).params.fullThreshold) ∧
  Claims.atUop i 4 (atK i 4) ∧
  (Claims.atUop i 5 (fullAtK i 5) ∧ (fullAtK i 5).txq.length < (fullAtK i 5).params.fifoDepth) ∧
  (Claims.atUop i 6 (atK i 6) ∧ (atK i 6).txq = []) ∧
  (Claims.atUop i 7 (flagAtK i 7) ∧ (flagAtK i 7).tcf = true)

theorem test_witness_FillSubmitsItsRun : (3 : Word) ≠ 0 ∧ runPremises (.fill 7 3) := by decide

theorem test_witness_BlitSubmitsItsRun :
    (3 : Word) ≠ 0 ∧ (29 : Word).toNat + (3 : Word).toNat ≤ vectorParams.pmemSize ∧ runPremises (.blit 29 3) := by decide

theorem test_witness_SessbegOpensTheSession :
    (let s := inSession (atWords 0 []); Claims.between s ∧ s.owner = .self) ∧
    (let s : State := { atWords 0 [] with owner := .other }; Claims.between s ∧ s.owner ≠ .self) ∧
    (let s : State := { atK .sessbeg 0 with owner := .other }; Claims.atUop .sessbeg 0 s ∧ s.owner ≠ .none) ∧
    (let s : State := { atK .sessbeg 0 with owner := .none, cs := true };
      Claims.atUop .sessbeg 0 s ∧ s.owner = .none ∧ ¬(s.txq = [] ∧ s.shifter = none ∧ s.cs = false)) ∧
    (let s : State := { atK .sessbeg 0 with owner := .none };
      Claims.atUop .sessbeg 0 s ∧ s.owner = .none ∧ s.txq = [] ∧ s.shifter = none ∧ s.cs = false) := by decide

theorem test_witness_SessendClosesTheSession :
    (Claims.between State.reset ∧ State.reset.owner ≠ .self) ∧
    (let s := inSession (atWords 0 []); Claims.between s ∧ s.owner = .self) ∧
    (let s : State := { atK .sessend 0 with shifter := some (dataFrame 1 true), cs := true };
      Claims.atUop .sessend 0 s ∧ ¬(s.txq = [] ∧ s.shifter = none ∧ s.cs = false)) ∧
    (let s := atK .sessend 0;
      Claims.atUop .sessend 0 s ∧ s.txq = [] ∧ s.shifter = none ∧ s.cs = false ∧ s.savedCfg = some ⟨0⟩) := by decide

theorem test_witness_InitlnInstallsTheLines :
    (let s := inSession (atWords 0 []); Claims.between s ∧ s.linesLocked = true) ∧
    (let s := State.reset; Claims.between s ∧ s.linesLocked = false ∧
      ((3 : Half) = 3 ∨ (3 : Half) = s.params.sentinel ∨ (3 : Half) = s.params.sentinel) ∧
      ((0 : Half) = 1 ∨ (0 : Half) = s.params.sentinel ∨ (1 : Half) = s.params.sentinel) ∧
      ¬((3 : Half) = 1 ∨ (3 : Half) = s.params.sentinel ∨ (1 : Half) = s.params.sentinel)) ∧
    Claims.atUop (.initln true 3 1) 0 (atK (.initln true 3 1) 0) ∧
    Claims.atUop (.initln false 3 1) 0 (atK (.initln false 3 1) 0) := by decide

theorem test_witness_HaltStopsTheSequencer :
    (let s := inSession (atWords 0 []); Claims.between s ∧ s.owner = .self) ∧
    (let s : State := { atWords 0 [] with owner := .other }; Claims.between s ∧ s.owner ≠ .self) ∧
    Claims.atUop .halt 0 (atK .halt 0) := by decide

theorem test_witness_RunExpansionsAreTheListsOfUnits : (1 : Word) ≠ 0 ∧ (0xFFFFFFFF : Word) ≠ 0 := by decide

theorem test_witness_WaitsHoldOrPass :
    (Claims.atUop (.fill 7 3) 3 (atK (.fill 7 3) 3) ∧ uopAt vectorParams (.fill 7 3) 3 = some .waitLe) ∧
    (let s : State := { atK (.fill 7 3) 3 with txq := dataFrame 4 false :: threeFrames };
      Claims.atUop (.fill 7 3) 3 s ∧ s.txq.length = s.params.fullThreshold + 1) ∧
    (Claims.atUop (.fill 7 3) 4 (atK (.fill 7 3) 4) ∧ uopAt vectorParams (.fill 7 3) 4 = some .clearTcf) ∧
    (Claims.atUop (.fill 7 3) 6 (atK (.fill 7 3) 6) ∧ uopAt vectorParams (.fill 7 3) 6 = some .waitEmpty) ∧
    (Claims.atUop (.fill 7 3) 7 (atK (.fill 7 3) 7) ∧ uopAt vectorParams (.fill 7 3) 7 = some .waitTcf) := by decide

theorem test_witness_SubmitAppendsOneFrame :
    (let s : State := { atK (.sendb .cmd .cont 5) 0 with txq := dataFrame 4 false :: threeFrames };
      Claims.atUop (.sendb .cmd .cont 5) 0 s ∧ uopAt s.params (.sendb .cmd .cont 5) 0 = some (.submit .cmd (.byte 5) false) ∧
      s.params.fifoDepth ≤ s.txq.length) ∧
    (let s : State := { atK (.sendb .cmd .cont 5) 0 with txq := threeFrames };
      Claims.atUop (.sendb .cmd .cont 5) 0 s ∧ s.txq.length < s.params.fifoDepth) ∧
    (let s := atK (.fill 7 3) 5;
      Claims.atUop (.fill 7 3) 5 s ∧ uopAt s.params (.fill 7 3) 5 = some (.submit .data (.half 7) true)) ∧
    (let s := atK (.blit 31 1) 1;
      Claims.atUop (.blit 31 1) 1 s ∧ uopAt s.params (.blit 31 1) 1 = some (.submit .data (.pmem 31) true) ∧
      31 < s.params.pmemSize) := by decide

theorem test_witness_OperationsAdvanceOrRetire :
    (Claims.atUop (.fill 7 3) 0 (atK (.fill 7 3) 0) ∧ nextIs (exec (.fill 7 3) (atK (.fill 7 3) 0)) (fun t => t.mode = .run) = true) ∧
    (Claims.atUop .halt 0 (atK .halt 0) ∧ nextIs (exec .halt (atK .halt 0)) (fun t => t.mode = .halted) = true) ∧
    (let s : State := { atK .sessend 0 with cs := true };
      Claims.atUop .sessend 0 s ∧ nextIs (exec .sessend s) (fun t => t.mode = .faulted) = true) := by decide

theorem test_witness_BusOperationFrame :
    [Instr.sendb .cmd .last 5, .sendw .data .cont 5, .setwin 1 2 3 4, .fill 7 3, .blit 0 3].all (fun i =>
      Claims.busOperation i && nextIs (exec i (atK i 0)) fun _ => true) = true := by decide

theorem test_witness_SystemOperationFrame :
    [Instr.sessbeg, .sessend, .initln true 3 1, .halt].all (fun i =>
      !Claims.busOperation i && nextIs (exec i (atK i 0)) fun _ => true) = true := by decide

theorem test_witness_FaultEntryIsTheSequencers :
    nextIs (step State.reset) (fun t => decide (State.reset.mode ≠ .faulted) && decide (t.mode = .faulted)) = true := by decide

/-- A halted state with frames still queued; no run reaches it, and the statement covers it. -/
def stoppedState : State := { atWords 0 [] with mode := .halted, txq := threeFrames, schedule := [.engine] }

theorem test_witness_StoppedBlockStaysStopped :
    nextIs (step stoppedState) (fun _ => true) = true ∧ stoppedState.mode ≠ .run ∧ Claims.goesOnRunning stoppedState = true := by
  decide

theorem test_witness_RestartGivesTheResetValues :
    nextMove { stoppedState with schedule := [.reset true] } = some (.reset true) ∧
    nextMove { stoppedState with schedule := [.launch false [6, 0xF] [1]] } = some (.launch false [6, 0xF] [1]) ∧
    63 < vectorParams.dmemWords ∧ 31 < vectorParams.pmemSize := by decide

theorem test_witness_EngineStartsAndFinishes :
    (nextMove stoppedState = some .engine ∧ stoppedState.shifter = none ∧
      stoppedState.txq = dataFrame 1 false :: [dataFrame 2 false, dataFrame 3 false]) ∧
    (let s : State := { stoppedState with shifter := some (dataFrame 9 true), cs := true };
      nextMove s = some .engine ∧ s.shifter = some (dataFrame 9 true)) ∧
    (let s : State := { stoppedState with txq := [] };
      nextMove s = some .engine ∧ s.shifter = none ∧ s.txq = []) := by decide

theorem test_witness_OtherConsumersTakeAndGive :
    nextMove { State.reset with schedule := [.otherAcquire] } = some .otherAcquire ∧
    nextMove { State.reset with schedule := [.otherRelease ⟨7⟩ true], owner := .other } = some (.otherRelease ⟨7⟩ true) := by
  decide

theorem test_witness_WireIsAppendOnly :
    let s : State := { stoppedState with shifter := some (dataFrame 9 true), cs := true }
    nextIs (step s) (fun t => t.wire.length = 1) = true ∧ Claims.goesOnRunning s = true := by decide

theorem test_witness_MemoriesAreNeverWritten :
    nextIs (step State.reset) (fun _ => true) = true ∧ State.reset.final = false ∧
    nextMove { State.reset with schedule := [.launch false [6] []] } = some (.launch false [6] []) := by decide

/-- A final state of a host that launches another image next. -/
def finalState : State := { State.reset with mode := .halted, policy := .repeated [.launch false [6] [9]] }

/-- The state after that launch, and after every one that follows. -/
def relaunchedState : State :=
  { (finalState.loadMemories [6] [9]).afterReset false with policy := .repeated [.launch false [6] [9]] }

/-- A run that ends final and is then launched with another image: a restart may load, as 70 R230 says. -/
def relaunchedRun : Nat → State
  | 0 => finalState
  | _ => relaunchedState

theorem test_relaunchedRun_isRun : IsRun relaunchedRun := by
  intro n
  match n with
  | 0 => rfl
  | _ + 1 => rfl

theorem test_relaunchedRun_memFrozen :
    MemFrozen relaunchedRun ∧ finalState.final = true ∧ relaunchedState.dmem ≠ finalState.dmem := by
  refine ⟨fun n h => ?_, by decide, by decide⟩
  match n with
  | 0 => exact absurd h (by decide : finalState.runEnds ≠ false)
  | _ + 1 => exact ⟨rfl, rfl⟩

/-- A write to DMEM while the run goes on breaks MemFrozen. -/
theorem test_memFrozen_broken :
    ¬ MemFrozen fun n => match n with
      | 0 => State.reset
      | _ => { State.reset with dmem := [(0, 6)] } := by
  intro h
  have := (h 0 (by decide : State.reset.runEnds = false)).1
  exact absurd this (by decide : ([(0, 6)] : List (Nat × Word)) ≠ State.reset.dmem)

theorem test_witness_SubmitOrderIsWireOrder :
    let s := seqAtK (.sendb .cmd .last 5) 1
    nextIs (step s) (fun t => t.txq = [⟨3, .byte 5, true⟩]) = true ∧ Claims.goesOnRunning s = true := by decide

theorem test_witness_OwnerChangesOnlyByTheArbiter :
    let s : State := { seqAtK .sessbeg 0 with owner := .none }
    nextIs (step s) (fun t => t.owner = .self) = true ∧ Claims.goesOnRunning s = true := by decide

theorem test_witness_LineTokensAreWrittenOnce :
    let s := seqAtK (.sendb .cmd .last 5) 1
    s.Inv ∧ s.linesLocked = true ∧ nextIs (step s) (fun _ => true) = true ∧ Claims.goesOnRunning s = true := by decide

theorem test_witness_FlagsChangeOnlyByTheirRules :
    (let s := stoppedState;
      nextIs (step s) (fun t => t.cs) = true ∧ Claims.goesOnRunning s = true ∧ s.cs = false) ∧
    (let s : State := { stoppedState with shifter := some (dataFrame 9 true), cs := true };
      nextIs (step s) (fun t => !t.cs && t.tcf) = true ∧ Claims.goesOnRunning s = true ∧ s.cs = true ∧ s.tcf = false) ∧
    (let s : State := { seqAtK (.sendb .cmd .last 5) 0 with tcf := true };
      nextIs (step s) (fun t => !t.tcf) = true ∧ Claims.goesOnRunning s = true ∧ s.tcf = true) ∧
    (let s : State := { State.reset with schedule := [.otherRelease ⟨7⟩ true], owner := .other };
      nextIs (step s) (fun t => t.tcf) = true ∧ Claims.goesOnRunning s = true ∧ s.tcf = false) := by decide

theorem test_witness_InvIsKeptByEveryStep :
    let s := seqAtK (.blit 29 3) 0
    s.params.wf = true ∧ s.Inv ∧ nextIs (step s) (fun _ => true) = true := by decide

theorem test_witness_HandshakeIsKeptByEveryStep :
    let s := seqAtK (.blit 29 3) 5
    s.params.wf = true ∧ s.params.tcfMode = .tagged ∧ s.Inv ∧ s.handshakeOk = true ∧ nextIs (step s) (fun _ => true) = true := by
  decide

/-- At a SUBMIT, the level at the threshold; and, QueueOverflow being in the fault register already, a step that leaves it. -/
theorem test_witness_QueueNeverOverflows :
    (let s : State := fullAtK (.fill 7 3) 5;
      s.params.fullThreshold < s.params.fifoDepth ∧ s.params.tcfMode = .tagged ∧ s.Inv ∧ s.handshakeOk = true ∧
      s.curUop = some (.submit .data (.half 7) true)) ∧
    (let s : State := { inSession (atWords 0 []) with mode := .faulted, fault := 12, schedule := [.sequencer] };
      s.params.fullThreshold < s.params.fifoDepth ∧ s.params.tcfMode = .tagged ∧ s.Inv ∧ s.handshakeOk = true ∧
      nextIs (step s) (fun t => t.fault = 12) = true) := by decide

/-- SENDB at its final wait, its frame finished. -/
def barrierState : State :=
  { atK (.sendb .cmd .last 5) 2 with tcf := true, wire := [⟨⟨3, .byte 5, true⟩, vectorParams.sessionCfg⟩] }

theorem test_witness_LastFramingIsABarrier :
    barrierState.params.tcfMode = .tagged ∧ barrierState.Inv ∧ barrierState.handshakeOk = true ∧
    Claims.atUop (.sendb .cmd .last 5) 2 barrierState ∧ uopAt barrierState.params (.sendb .cmd .last 5) 2 = some .waitTcf ∧
    nextIs (exec (.sendb .cmd .last 5) barrierState) (fun t => t.cur = none) = true := by decide

/-- T3 after its step 3. -/
def t3State (mode : TcfMode) : State :=
  { atK (.sendb .data .last 0xBB) 2 with
    params := { vectorParams with tcfMode := mode }, shifter := some ⟨1, .byte 0xAA, false⟩, cs := true,
    txq := [⟨1, .byte 0xBB, true⟩], schedule := [.engine] }

theorem test_witness_EachFrameBreaksTheBarrier :
    (Claims.atUop (.sendb .data .last 0xBB) 2 (t3State .eachFrame) ∧ (t3State .eachFrame).tcf = false ∧
      (t3State .eachFrame).shifter = some ⟨1, .byte 0xAA, false⟩ ∧ (t3State .eachFrame).txq = [⟨1, .byte 0xBB, true⟩] ∧
      nextMove (t3State .eachFrame) = some .engine ∧ (t3State .eachFrame).params.tcfMode = .eachFrame) ∧
    (Claims.atUop (.sendb .data .last 0xBB) 2 (t3State .tagged) ∧ (t3State .tagged).tcf = false ∧
      (t3State .tagged).shifter = some ⟨1, .byte 0xAA, false⟩ ∧ (t3State .tagged).txq = [⟨1, .byte 0xBB, true⟩] ∧
      nextMove (t3State .tagged) = some .engine ∧ (t3State .tagged).params.tcfMode = .tagged) := by decide

theorem test_witness_StepNeverStops :
    (atK (.blit 29 3) 5).params.wf = true ∧ (atK (.blit 29 3) 5).Inv := by decide

theorem test_witness_HaltedIsFinal :
    let s : State := { atWords 9 [0xF] with mode := .halted, schedule := [.otherAcquire] }
    s.params.wf = true ∧ s.Inv ∧ s.mode = .halted ∧ nextIs (step s) (fun _ => true) = true ∧ Claims.goesOnRunning s = true := by
  decide

theorem test_witness_OnlyATaggedFinishQuietsThePort :
    let s : State := { inSession (atWords 4 [7]) with shifter := some (dataFrame 1 false), cs := true, schedule := [.engine] }
    s.Inv ∧ s.quiescent = false ∧ noneTagged s.outstanding = true ∧ nextIs (step s) (fun _ => true) = true ∧
    Claims.goesOnRunning s = true := by decide

/-- SETWIN at its last wait, the level at the threshold, the earlier frames on their way. -/
def setwinState : State :=
  { fullAtK (.setwin 9 8 7 6) 13 with shifter := some (dataFrame 4 false), cs := true, schedule := [.sequencer] }

theorem test_witness_SetwinLeavesThePortBusy :
    (setwinState.params.wf = true ∧ setwinState.params.tcfMode = .tagged ∧ setwinState.Inv ∧ setwinState.handshakeOk = true ∧
      Claims.setwinBusy setwinState) ∧
    nextIs (step setwinState) (fun _ => true) = true ∧ Claims.atUop (.setwin 9 8 7 6) 13 setwinState ∧
    nextIs (exec (.setwin 9 8 7 6) setwinState) (fun t => t.cur = none) = true :=
  ⟨⟨by decide, by decide, by decide, by decide, fun _ _ _ _ _ _ _ => by decide⟩, by decide, by decide, by decide⟩

theorem test_witness_OnlyAnotherAgentLiftsAHold :
    (let s := seqAtK (.sendb .cmd .last 5) 2;
      s.Inv ∧ s.mode = .run ∧ s.sequencerEnabled = false ∧ nextIs (step s) (fun _ => true) = true ∧
      Claims.goesOnRunning s = true ∧ s.curUop ≠ some .acquire ∧ nextMove s ≠ some .engine) ∧
    (let s : State := { atWords 0 [6] with cur := some ⟨.sessbeg, 0⟩, owner := .other, schedule := [.engine] };
      s.Inv ∧ s.mode = .run ∧ s.sequencerEnabled = false ∧ nextIs (step s) (fun _ => true) = true ∧
      Claims.goesOnRunning s = true ∧ s.curUop = some .acquire ∧ nextMove s = some .engine) ∧
    (let s := stalled { atK (.sendb .cmd .last 5) 2 with txq := [dataFrame 1 true] };
      s.mode = .run ∧ s.sequencerEnabled = false ∧ s.schedule = [] ∧ s.policy = .repeated [.sequencer] ∧
      s.engineEnabled = true) ∧
    (let s := stalled { atWords 0 [6] with cur := some ⟨.sessbeg, 0⟩, owner := .other };
      s.mode = .run ∧ s.sequencerEnabled = false ∧ s.schedule = [] ∧ s.policy = .repeated [.sequencer] ∧
      s.curUop = some .acquire) := by decide

theorem test_witness_LastFramedOperationsDrainToTheWire :
    [Instr.sendb .cmd .last 5, .sendw .data .last 5, .fill 7 3, .blit 29 3].all (fun i =>
      let s : State := { inSession (atWords 0 (encode i)) with txq := threeFrames }
      s.params.wf && decide (s.params.tcfMode = .tagged) && decide s.Inv && s.handshakeOk && decide (Claims.between s) &&
        decide (s.schedule = []) && decide (s.policy = .eager) && decide (s.owner = .self) && decide (staticCheck i s = none) &&
        (Claims.lastFrames s i).isSome &&
        match decode (fetchWords s) with
        | .ok j _ => decide (j = i)
        | .error _ => false) = true := by decide

/-- SENDB at its final wait, its frame in the shifter. -/
def waitingState : State :=
  { atK (.sendb .cmd .last 5) 2 with shifter := some ⟨3, .byte 5, true⟩, cs := true }

/-- The frame has finished. -/
def finishedState : State :=
  { waitingState with
    shifter := none, cs := false, tcf := true, wire := [⟨⟨3, .byte 5, true⟩, vectorParams.sessionCfg⟩] }

/-- SENDB has retired. -/
def retiredState : State := { finishedState with cur := none, dp := 1 }

/-- The next word is 0: IllegalOp. -/
def endedState : State := { retiredState with mode := .faulted, fault := 1, faultDp := 1 }

/-- The run from `waitingState`. -/
def waitingRun : Nat → State
  | 0 => waitingState
  | 1 => finishedState
  | 2 => retiredState
  | _ => endedState

theorem test_waitingRun_isRun : IsRun waitingRun := by
  intro n
  match n with
  | 0 => rfl
  | 1 => rfl
  | 2 => rfl
  | _ + 3 => rfl

theorem test_waitingRun_noRestart : NoRestart waitingRun := by
  have none_starts : ∀ s : State, (nextMove s).all (fun m => !m.restarts) = true →
      ∀ m, nextMove s = some m → m.restarts = false := by
    intro s h m hm
    rw [hm] at h
    simpa using h
  intro n
  match n with
  | 0 => exact none_starts waitingState (by decide)
  | 1 => exact none_starts finishedState (by decide)
  | 2 => exact none_starts retiredState (by decide)
  | _ + 3 => exact none_starts endedState (by decide)

theorem test_waitingRun_engineFair : EngineFair waitingRun := by
  intro n
  exact ⟨n + 3, by omega, .inl (show endedState.engineEnabled = false by decide)⟩

theorem test_waitingRun_proper : ProperRun waitingRun :=
  ⟨test_waitingRun_isRun, fun n => ⟨n + 3, by omega, .inl (show endedState.sequencerEnabled = false by decide)⟩⟩

theorem test_waitingRun_othersRelease : OthersRelease waitingRun := by
  have never : ∀ n, (waitingRun n).owner ≠ .other ∧ (waitingRun n).curUop ≠ some .acquire := by
    intro n
    match n with
    | 0 => exact (by decide : waitingState.owner ≠ .other ∧ waitingState.curUop ≠ some .acquire)
    | 1 => exact (by decide : finishedState.owner ≠ .other ∧ finishedState.curUop ≠ some .acquire)
    | 2 => exact (by decide : retiredState.owner ≠ .other ∧ retiredState.curUop ≠ some .acquire)
    | _ + 3 => exact (by decide : endedState.owner ≠ .other ∧ endedState.curUop ≠ some .acquire)
  exact ⟨fun n h => absurd h (never n).1, fun n h => absurd h (never n).2⟩

theorem test_witness_PortWaitsEndUnderEngineFair :
    IsRun waitingRun ∧ ProperRun waitingRun ∧ NoRestart waitingRun ∧ EngineFair waitingRun ∧ OthersRelease waitingRun ∧
    (waitingRun 0).params.wf = true ∧ (waitingRun 0).params.tcfMode = .tagged ∧ (waitingRun 0).Inv ∧
    (waitingRun 0).handshakeOk = true ∧ (waitingRun 0).curUop = some .waitTcf :=
  ⟨test_waitingRun_isRun, test_waitingRun_proper, test_waitingRun_noRestart, test_waitingRun_engineFair,
    test_waitingRun_othersRelease, by decide⟩

theorem test_witness_CompletionFlagInfluencesOnlyItsWait :
    let s := seqAtK (.sendb .cmd .last 5) 1
    s.curUop ≠ some .waitTcf ∧ nextIs (step s) (fun _ => true) = true := by decide

theorem test_witness_BusConfigurationInfluencesNothing :
    Claims.forgetCfg (seqAtK .sessend 0) = Claims.forgetCfg { seqAtK .sessend 0 with busCfg := ⟨77⟩, savedCfg := some ⟨78⟩ } ∧
    nextIs (step (seqAtK .sessend 0)) (fun _ => true) = true := by decide

theorem test_witness_StatusRegistersShowTheState :
    (atWords 63 []).txq.length ≤ 255 ∧ (atWords 63 []).dp < 2 ^ 32 ∧ 5 ≤ 5 := by decide

theorem test_witness_ControllerReceivesTheDeliveredBytes :
    (let s := wireOf [dataFrame 1 false, ⟨3, .byte 5, true⟩] (inSession (atWords 0 []));
      s.wire = [⟨dataFrame 1 false, s.params.sessionCfg⟩] ++ [⟨⟨3, .byte 5, true⟩, s.params.sessionCfg⟩]) ∧
    State.reset.linesValid = false ∧ 7 < 8 := by decide

/-- A window of two by one at the last row, filled to its capacity, after an earlier window. -/
def rasterFront : List WireFrame :=
  ((Claims.setwinFrames (inSession (atWords 0 [])) 0 0 0 0) ++ [dataFrame 4 true]).map fun f => ⟨f, vectorParams.sessionCfg⟩

/-- The state of that wire. -/
def rasterState : State :=
  { inSession (atWords 0 []) with
    wire := rasterFront ++
      ((Claims.setwinFrames (inSession (atWords 0 [])) 238 319 239 319) ++ [dataFrame 5 false, dataFrame 6 true]).map
        fun f => ⟨f, vectorParams.sessionCfg⟩,
    fromRun := List.replicate 7 false ++ [true] ++ List.replicate 7 false ++ [true, true] }

theorem test_witness_PixelsFillTheWindowInRasterOrder :
    rasterState.linesValid = true ∧ rasterState.tokCmd ≠ rasterState.tokData ∧
    rasterState.params.cmdColset ≠ rasterState.params.cmdRowset ∧
    rasterState.params.cmdColset ≠ rasterState.params.cmdMemwrite ∧
    rasterState.params.cmdRowset ≠ rasterState.params.cmdMemwrite ∧
    (238 : Half).toNat ≤ (239 : Half).toNat ∧ (239 : Half).toNat < rasterState.params.ctrlW ∧
    (319 : Half).toNat ≤ (319 : Half).toNat ∧ (319 : Half).toNat < rasterState.params.ctrlH ∧
    (∀ k, k < 7 → rasterState.fromRun.getD (rasterFront.length + k) false = false) ∧
    (controllerView { rasterState with wire := rasterFront }).lost = false ∧
    (controllerView { rasterState with wire := rasterFront }).half = none ∧
    [((5 : Half), false), (6, true)].length ≤
      ((239 : Half).toNat - (238 : Half).toNat + 1) * ((319 : Half).toNat - (319 : Half).toNat + 1) ∧
    rasterState.wire.map WireFrame.frame = rasterFront.map WireFrame.frame ++ Claims.setwinFrames rasterState 238 319 239 319 ++
      [((5 : Half), false), (6, true)].map (fun p => ⟨rasterState.tokData, .half p.1, p.2⟩) := by decide

theorem test_witness_FrameMemoryIsLostOutsideTheWindow :
    let p := vectorParams
    (View.lost { View.start with lost := true }) = true ∧
    (View.command { View.start with command := some p.cmdMemwrite }) = some p.cmdMemwrite ∧
    (View.isOpen { View.start with command := some p.cmdMemwrite }) = false ∧
    p.cmdMemwrite ≠ p.cmdColset ∧ p.cmdMemwrite ≠ p.cmdRowset ∧
    (View.bounds p { View.start with command := some p.cmdMemwrite, isOpen := true }) = none ∧
    (View.half { View.start with half := some 1 }) ≠ none ∧ View.start.command = none ∧
    (0x29 : Byte) ≠ p.cmdColset ∧ (0x29 : Byte) ≠ p.cmdRowset ∧ (0x29 : Byte) ≠ p.cmdMemwrite ∧
    (View.isOpen { View.start with command := some p.cmdColset, params := [0, 1] }) = false := by decide

theorem test_witness_PseudoInstructionsExpand : 65535 < 2 ^ 16 ∧ ¬(1 = 0 ∨ 65535 + 1 - 1 > 0xFFFF) := by decide

end Sys2Proof.Tests
end

section
/-! PROOFS. Noninterference of the bus configuration values (00 R7, 43 R167). What the block reads is the same in `s` and in
`forgetCfg s`, and what it writes is the same but for configuration values; so stepping and then forgetting the values gives the
same result whether or not they were forgotten before the step. -/

namespace Sys2Proof.Machine

open Claims (forgetCfg)

/-! ### What is read does not depend on the values -/

@[simp] theorem forgetCfg_params (s : State) : (forgetCfg s).params = s.params := rfl
@[simp] theorem forgetCfg_mode (s : State) : (forgetCfg s).mode = s.mode := rfl
@[simp] theorem forgetCfg_cur (s : State) : (forgetCfg s).cur = s.cur := rfl
@[simp] theorem forgetCfg_owner (s : State) : (forgetCfg s).owner = s.owner := rfl
@[simp] theorem forgetCfg_txq (s : State) : (forgetCfg s).txq = s.txq := rfl
@[simp] theorem forgetCfg_shifter (s : State) : (forgetCfg s).shifter = s.shifter := rfl
@[simp] theorem forgetCfg_schedule (s : State) : (forgetCfg s).schedule = s.schedule := rfl
@[simp] theorem forgetCfg_policy (s : State) : (forgetCfg s).policy = s.policy := rfl
@[simp] theorem forgetCfg_savedCfg (s : State) : (forgetCfg s).savedCfg = s.savedCfg.map fun _ => ⟨0⟩ := rfl

@[simp] theorem level_forgetCfg (s : State) : (forgetCfg s).level = s.level := rfl
@[simp] theorem quiescent_forgetCfg (s : State) : (forgetCfg s).quiescent = s.quiescent := rfl
@[simp] theorem sequencerEnabled_forgetCfg (s : State) : (forgetCfg s).sequencerEnabled = s.sequencerEnabled := rfl
@[simp] theorem engineEnabled_forgetCfg (s : State) : (forgetCfg s).engineEnabled = s.engineEnabled := rfl
@[simp] theorem tokOf_forgetCfg (s : State) (sel : LineSel) : tokOf (forgetCfg s) sel = tokOf s sel := by cases sel <;> rfl
@[simp] theorem readSrc_forgetCfg (s : State) (src : Src) : readSrc (forgetCfg s) src = readSrc s src := by cases src <;> rfl
@[simp] theorem fetchWords_forgetCfg (s : State) : fetchWords (forgetCfg s) = fetchWords s := rfl
@[simp] theorem nextMove_forgetCfg (s : State) : nextMove (forgetCfg s) = nextMove s := rfl

@[simp] theorem holds_forgetCfg (s : State) (u : Uop) : (forgetCfg s).holds u = s.holds u := by cases u <;> rfl

@[simp] theorem staticCheck_forgetCfg (i : Instr) (s : State) : staticCheck i (forgetCfg s) = staticCheck i s := by
  cases i <;> rfl

/-! ### What is written is the same but for the values -/

@[simp] theorem forgetCfg_forgetCfg (s : State) : forgetCfg (forgetCfg s) = forgetCfg s := by
  simp [forgetCfg, Function.comp_def]

@[simp] theorem forgetCfg_raise (c : FaultCode) (s : State) : forgetCfg (s.raise c) = (forgetCfg s).raise c := rfl
@[simp] theorem forgetCfg_begin (i : Instr) (s : State) : forgetCfg (s.begin i) = (forgetCfg s).begin i := rfl
@[simp] theorem forgetCfg_advance (i : Instr) (k : Nat) (s : State) : forgetCfg (s.advance i k) = (forgetCfg s).advance i k := rfl
@[simp] theorem forgetCfg_retire (len : Nat) (s : State) : forgetCfg (s.retire len) = (forgetCfg s).retire len := rfl
@[simp] theorem forgetCfg_enqueue (f : Frame) (s : State) : forgetCfg (s.enqueue f) = (forgetCfg s).enqueue f := rfl
@[simp] theorem forgetCfg_clearTcf (s : State) : forgetCfg s.clearTcf = (forgetCfg s).clearTcf := rfl
@[simp] theorem forgetCfg_installLines (tc td : Half) (s : State) :
    forgetCfg (s.installLines tc td) = (forgetCfg s).installLines tc td := rfl
@[simp] theorem forgetCfg_lockLines (s : State) : forgetCfg s.lockLines = (forgetCfg s).lockLines := rfl
@[simp] theorem forgetCfg_stop (s : State) : forgetCfg s.stop = (forgetCfg s).stop := rfl
@[simp] theorem forgetCfg_startShift (f : Frame) (q : List Frame) (s : State) :
    forgetCfg (s.startShift f q) = (forgetCfg s).startShift f q := rfl
@[simp] theorem forgetCfg_otherTakes (s : State) : forgetCfg s.otherTakes = (forgetCfg s).otherTakes := rfl
@[simp] theorem forgetCfg_loadMemories (p : List Word) (q : List Half) (s : State) :
    forgetCfg (s.loadMemories p q) = (forgetCfg s).loadMemories p q := rfl
@[simp] theorem forgetCfg_setSchedule (ms : List Move) (s : State) :
    forgetCfg (s.setSchedule ms) = (forgetCfg s).setSchedule ms := rfl
@[simp] theorem forgetCfg_countDraw (s : State) : forgetCfg s.countDraw = (forgetCfg s).countDraw := rfl

/-- The value RELEASE restores is forgotten. -/
@[simp] theorem forgetCfg_closeSession (b : BusCfg) (s : State) :
    forgetCfg (s.closeSession b) = (forgetCfg s).closeSession ⟨0⟩ := rfl

/-- The value another consumer leaves is forgotten. -/
@[simp] theorem forgetCfg_otherGives (b : BusCfg) (tcf : Bool) (s : State) :
    forgetCfg (s.otherGives b tcf) = (forgetCfg s).otherGives ⟨0⟩ tcf := rfl

/-- The stamp FINISH puts on the wire frame is forgotten. -/
@[simp] theorem forgetCfg_finishShift (f : Frame) (s : State) :
    forgetCfg (s.finishShift f) = (forgetCfg s).finishShift f := by
  simp [forgetCfg, State.finishShift]

/-- ACQUIRE saves one value and applies a parameter; both are forgotten. -/
@[simp] theorem forgetCfg_openSession_forgetCfg (s : State) :
    forgetCfg (forgetCfg s).openSession = forgetCfg s.openSession := by
  simp [forgetCfg, State.openSession, Function.comp_def]

/-- A reset overwrites every configuration value. -/
@[simp] theorem forgetCfg_afterReset_forgetCfg (other : Bool) (s : State) :
    forgetCfg ((forgetCfg s).afterReset other) = forgetCfg (s.afterReset other) := rfl

/-! ### Micro-operations -/

/-- What performing a micro-operation gives, with the configuration values in its state forgotten. -/
def Performed.forgetCfg : Performed → Performed
  | .done s => .done (Claims.forgetCfg s)
  | .stopped s => .stopped (Claims.forgetCfg s)
  | .held => .held
  | .raised c => .raised c
  | .stuck f => .stuck f

theorem doSubmit_forgetCfg (sel : LineSel) (src : Src) (last : Bool) (s : State) :
    (doSubmit sel src last (forgetCfg s)).forgetCfg = (doSubmit sel src last s).forgetCfg := by
  simp only [doSubmit, forgetCfg_params, level_forgetCfg, readSrc_forgetCfg, tokOf_forgetCfg]
  split
  · rfl
  · cases readSrc s src <;> simp [Performed.forgetCfg]

theorem doAcquire_forgetCfg (s : State) : (doAcquire (forgetCfg s)).forgetCfg = (doAcquire s).forgetCfg := by
  cases h : s.quiescent <;> simp [doAcquire, h, Performed.forgetCfg]

/-- RELEASE asks only whether `saved_cfg` is written, not what it holds. -/
theorem doRelease_forgetCfg (s : State) : (doRelease (forgetCfg s)).forgetCfg = (doRelease s).forgetCfg := by
  cases h : s.quiescent with
  | true => cases hb : s.savedCfg <;> simp [doRelease, h, hb, Performed.forgetCfg]
  | false => simp [doRelease, h]

theorem doSetLines_forgetCfg (valid : Bool) (tc td : Half) (s : State) :
    (doSetLines valid tc td (forgetCfg s)).forgetCfg = (doSetLines valid tc td s).forgetCfg := by
  cases valid <;> simp [doSetLines, Performed.forgetCfg]

theorem perform_forgetCfg (u : Uop) (s : State) : (perform u (forgetCfg s)).forgetCfg = (perform u s).forgetCfg := by
  simp only [perform, holds_forgetCfg]
  split
  · rfl
  · cases u with
    | submit sel src last => exact doSubmit_forgetCfg sel src last s
    | acquire => exact doAcquire_forgetCfg s
    | release => exact doRelease_forgetCfg s
    | setLines valid tc td => exact doSetLines_forgetCfg valid tc td s
    | waitLe | clearTcf | waitEmpty | waitTcf | stopRun => simp [Performed.forgetCfg]

/-! ### The sequencer -/

/-- The outcome of a step, with the configuration values in its next state forgotten. -/
def forgetNext : Host.Outcome State Fault Refusal → Host.Outcome State Fault Refusal
  | .next s => .next (forgetCfg s)
  | .fault f => .fault f
  | .refused r => .refused r

@[simp] theorem forgetNext_next (s : State) : forgetNext (.next s) = .next (forgetCfg s) := rfl
@[simp] theorem forgetNext_fault (f : Fault) : forgetNext (.fault f) = .fault f := rfl

theorem forgetNext_eq_next {o : Host.Outcome State Fault Refusal} {t : State} (h : forgetNext o = .next t) :
    ∃ s, o = .next s ∧ forgetCfg s = t := by
  cases o with
  | next s => exact ⟨s, rfl, by simpa using h⟩
  | fault f => cases h
  | refused r => cases h

/-- How the EXEC step of micro-operation k of operation i goes on after performing it; `more` says whether another one follows. -/
def Performed.outcome (i : Instr) (k : Nat) (more : Bool) (s : State) : Performed → Host.Outcome State Fault Refusal
  | .done t => .next (if more then t.advance i k else t.retire i.words)
  | .stopped t => .next t
  | .held => .next s
  | .raised c => .next (s.raise c)
  | .stuck f => .fault f

theorem execStep_eq_outcome {uop : Nat → Option Uop} {k : Nat} {u : Uop} (hu : uop k = some u) (i : Instr) (s : State) :
    execStep i uop k s = (perform u s).outcome i k (uop (k + 1)).isSome s := by
  simp only [execStep, hu]
  cases perform u s <;> rfl

theorem forgetNext_outcome (i : Instr) (k : Nat) (more : Bool) (s : State) (p : Performed) :
    forgetNext (p.outcome i k more s) = p.forgetCfg.outcome i k more (forgetCfg s) := by
  cases p with
  | done t => cases more <;> rfl
  | stopped | held | raised | stuck => rfl

theorem execStep_forgetCfg (i : Instr) (uop : Nat → Option Uop) (k : Nat) (s : State) :
    forgetNext (execStep i uop k (forgetCfg s)) = forgetNext (execStep i uop k s) := by
  cases hu : uop k with
  | none => simp [execStep, hu]
  | some u =>
    simp only [execStep_eq_outcome hu, forgetNext_outcome, perform_forgetCfg, forgetCfg_forgetCfg]

theorem forgetCfg_decodeStep (i : Instr) (check : Option FaultCode) (s : State) :
    forgetCfg (decodeStep i check s) = decodeStep i check (forgetCfg s) := by
  cases check <;> rfl

theorem exec_forgetCfg (i : Instr) (s : State) : forgetNext (exec i (forgetCfg s)) = forgetNext (exec i s) := by
  simp only [exec_eq, sequencerOn, forgetCfg_mode, forgetCfg_cur, forgetCfg_params, staticCheck_forgetCfg]
  cases s.mode with
  | halted | faulted => simp
  | run =>
    cases s.cur with
    | none => simp [forgetCfg_decodeStep]
    | some a =>
      dsimp only
      split
      · exact execStep_forgetCfg i _ a.k s
      · rfl

theorem sequencerStep_forgetCfg (s : State) :
    forgetNext (sequencerStep (forgetCfg s)) = forgetNext (sequencerStep s) := by
  simp only [sequencerStep, forgetCfg_mode, forgetCfg_cur, fetchWords_forgetCfg]
  cases s.mode with
  | halted | faulted => simp
  | run =>
    cases s.cur with
    | some a => exact exec_forgetCfg a.op s
    | none =>
      cases decode (fetchWords s) with
      | ok i rest => exact exec_forgetCfg i s
      | error e => simp

/-! ### The other agents and the step -/

theorem forgetCfg_engineStep (s : State) : forgetCfg (engineStep s) = engineStep (forgetCfg s) := by
  simp only [engineStep, forgetCfg_shifter, forgetCfg_txq]
  cases s.shifter with
  | some f => exact forgetCfg_finishShift f s
  | none => cases s.txq <;> rfl

theorem forgetCfg_otherAcquire (s : State) : forgetCfg (otherAcquire s) = otherAcquire (forgetCfg s) := by
  by_cases h : s.owner = .none <;> simp [otherAcquire, h]

theorem forgetCfg_otherRelease (b : BusCfg) (tcf : Bool) (s : State) :
    forgetCfg (otherRelease b tcf s) = otherRelease ⟨0⟩ tcf (forgetCfg s) := by
  by_cases h : s.owner = .other <;> simp [otherRelease, h]

theorem forgetCfg_usePolicy (s : State) : forgetCfg (usePolicy s) = usePolicy (forgetCfg s) := by
  cases hp : s.policy with
  | eager => cases he : s.sequencerEnabled || s.engineEnabled <;> simp [usePolicy, hp, he]
  | repeated | free => simp [usePolicy, hp]

theorem forgetCfg_useMove (s : State) : forgetCfg (useMove s) = useMove (forgetCfg s) := by
  simp only [useMove, forgetCfg_schedule]
  cases s.schedule with
  | nil => exact forgetCfg_usePolicy s
  | cons m ms => rfl

theorem takeMove_forgetCfg (m : Move) (s : State) : forgetNext (takeMove m (forgetCfg s)) = forgetNext (takeMove m s) := by
  cases m with
  | sequencer => exact sequencerStep_forgetCfg s
  | engine => simp [takeMove, forgetCfg_engineStep]
  | otherAcquire => simp [takeMove, forgetCfg_otherAcquire]
  | otherRelease b tcf => simp [takeMove, forgetCfg_otherRelease]
  | reset other => simp [takeMove]
  | launch other program pixels =>
    simp only [takeMove, forgetNext_next, ← forgetCfg_loadMemories, forgetCfg_afterReset_forgetCfg]

/-- The configuration values in the state before a step decide only configuration values in the state after it. -/
theorem step_forgetCfg (s : State) : forgetNext (step (forgetCfg s)) = forgetNext (step s) := by
  simp only [step, oneStep, nextMove_forgetCfg, ← forgetCfg_useMove]
  cases nextMove s with
  | none => simp
  | some m => exact takeMove_forgetCfg m (useMove s)

/-- Settles O55: both states step as their common state with the values forgotten does. -/
theorem busConfigurationInfluencesNothing : Obligations.BusConfigurationInfluencesNothing := by
  intro s₁ s₂ t₁ hs h₁
  have h₂ : forgetNext (step s₂) = .next (forgetCfg t₁) := by
    calc forgetNext (step s₂) = forgetNext (step (forgetCfg s₂)) := (step_forgetCfg s₂).symm
      _ = forgetNext (step (forgetCfg s₁)) := by rw [hs]
      _ = forgetNext (step s₁) := step_forgetCfg s₁
      _ = .next (forgetCfg t₁) := by rw [h₁, forgetNext_next]
  obtain ⟨t₂, hstep, ht⟩ := forgetNext_eq_next h₂
  exact ⟨t₂, hstep, ht.symm⟩

end Sys2Proof.Machine
end

section
/-! PROOFS. The micro-operations of each operation (40 R100 to R103, 41 R130, 42 R140, R141, 43 R160 to R165): how many there
are, and which ones they are. -/

namespace Sys2Proof.Machine

open Claims (wordCount busOperation)

/-! ### How many there are -/

/-- A pixel run has its counted micro-operations, none where the count is 0. -/
theorem runUop_isSome_iff (count : Word) (pixel : Nat → Src) (k : Nat) :
    (runUop count.toNat pixel k).isSome = true ↔ k < if count = 0 then 0 else 2 * (count.toNat - 1) + 4 := by
  by_cases h : count = 0
  · simp [h, runUop]
  · rw [if_neg h]
    exact runUop_isSome count.toNat pixel k fun e => h (BitVec.eq_of_toNat_eq e)

/-- Settles O22, operation by operation: the length of a written list, or that of a computed run. -/
theorem expansionsHaveTheirLength : Obligations.ExpansionsHaveTheirLength := by
  intro p i k
  cases i with
  | sendb sel frm v => cases frm <;> exact .of_eq (isSome_getElem? _ k)
  | sendw sel frm v => cases frm <;> exact .of_eq (isSome_getElem? _ k)
  | setwin x0 y0 x1 y1 => exact .of_eq (isSome_getElem? (setwinUops p x0 y0 x1 y1) k)
  | fill color count => exact runUop_isSome_iff count (fun _ => .half color) k
  | blit base count => exact runUop_isSome_iff count (fun n => .pmem (base.toNat + n)) k
  | sessbeg | sessend | initln | halt => exact .of_eq (isSome_getElem? [_] k)

/-- The model's length of an operation is the spec's (30 R82). -/
theorem words_eq_wordCount (i : Instr) : i.words = wordCount i := by cases i <;> rfl

/-- An operation with a second micro-operation is one that submits frames. -/
theorem busOperation_of_uopAt_succ {p : Params} {i : Instr} {k : Nat} (h : uopAt p i (k + 1) ≠ none) :
    busOperation i = true := by
  cases i with
  | sendb | sendw | setwin | fill | blit => rfl
  | sessbeg | sessend | initln | halt => exact absurd rfl h

/-! ### Which ones they are -/

/-- The micro-operations of the framing units: they use the port and write none of the registers a static check reads. -/
def Uop.isFraming : Uop → Bool
  | .submit .. | .waitLe | .clearTcf | .waitEmpty | .waitTcf => true
  | .acquire | .release | .setLines .. | .stopRun => false

theorem isFraming_of_mem_unitC {sel : LineSel} {src : Src} {u : Uop} (h : u ∈ unitC sel src) : u.isFraming = true := by
  rcases List.mem_pair.1 h with rfl | rfl <;> rfl

theorem isFraming_of_mem_unitL8 {sel : LineSel} {src : Src} {u : Uop} (h : u ∈ unitL8 sel src) : u.isFraming = true := by
  simp only [unitL8, List.mem_cons, List.not_mem_nil, or_false] at h
  rcases h with rfl | rfl | rfl <;> rfl

theorem isFraming_of_mem_unitL16 {sel : LineSel} {src : Src} {u : Uop} (h : u ∈ unitL16 sel src) : u.isFraming = true := by
  simp only [unitL16, List.mem_cons, List.not_mem_nil, or_false] at h
  rcases h with rfl | rfl | rfl | rfl <;> rfl

/-- Where the micro-operations of a pixel run come from: a CONTINUE unit of one of its pixels, or the LAST unit of its last. -/
theorem mem_unit_of_runUop {count : Nat} {pixel : Nat → Src} {k : Nat} {u : Uop} (h : runUop count pixel k = some u) :
    ∃ n, n < count ∧ (u ∈ unitC .data (pixel n) ∨ u ∈ unitL16 .data (pixel n)) := by
  unfold runUop at h
  split at h
  · cases h
  · split at h
    · exact ⟨k / 2, by omega, .inl (List.mem_of_getElem? h)⟩
    · exact ⟨count - 1, by omega, .inr (List.mem_of_getElem? h)⟩

theorem isFraming_of_runUop {count : Nat} {pixel : Nat → Src} {k : Nat} {u : Uop} (h : runUop count pixel k = some u) :
    u.isFraming = true := by
  obtain ⟨n, -, hu | hu⟩ := mem_unit_of_runUop h
  · exact isFraming_of_mem_unitC hu
  · exact isFraming_of_mem_unitL16 hu

/-- The operations that submit frames are made of framing units. -/
theorem isFraming_of_busOperation {p : Params} {i : Instr} {k : Nat} {u : Uop} (hi : busOperation i = true)
    (h : uopAt p i k = some u) : u.isFraming = true := by
  cases i with
  | sendb sel frm v =>
    cases frm with
    | cont => exact isFraming_of_mem_unitC (List.mem_of_getElem? h)
    | last => exact isFraming_of_mem_unitL8 (List.mem_of_getElem? h)
  | sendw sel frm v =>
    cases frm with
    | cont => exact isFraming_of_mem_unitC (List.mem_of_getElem? h)
    | last => exact isFraming_of_mem_unitL16 (List.mem_of_getElem? h)
  | setwin x0 y0 x1 y1 =>
    have hu := List.mem_of_getElem? h
    simp only [setwinUops, List.mem_append] at hu
    rcases hu with (((((hu | hu) | hu) | hu) | hu) | hu) | hu <;> exact isFraming_of_mem_unitC hu
  | fill color count => exact isFraming_of_runUop (pixel := fun _ => .half color) h
  | blit base count => exact isFraming_of_runUop (pixel := fun n => .pmem (base.toNat + n)) h
  | sessbeg | sessend | initln | halt => cases hi

/-- The one micro-operation of an operation that submits nothing. -/
def soleUop : Instr → Option Uop
  | .sessbeg => some .acquire
  | .sessend => some .release
  | .initln valid tc td => some (.setLines valid tc td)
  | .halt => some .stopRun
  | .sendb .. | .sendw .. | .setwin .. | .fill .. | .blit .. => none

/-- What is no framing micro-operation is the only one of SESSBEG, SESSEND, INITLN or HALT. -/
theorem uopAt_not_framing {p : Params} {i : Instr} {k : Nat} {u : Uop} (h : uopAt p i k = some u) (hu : u.isFraming = false) :
    k = 0 ∧ soleUop i = some u := by
  cases i with
  | sendb | sendw | setwin | fill | blit =>
    rw [isFraming_of_busOperation rfl h] at hu
    cases hu
  | sessbeg | sessend | initln | halt =>
    cases k with
    | zero => exact ⟨rfl, h⟩
    | succ k => cases h

theorem busOperation_of_submit {p : Params} {i : Instr} {k : Nat} {sel : LineSel} {src : Src} {last : Bool}
    (h : uopAt p i k = some (.submit sel src last)) : busOperation i = true := by
  cases i with
  | sendb | sendw | setwin | fill | blit => rfl
  | sessbeg | sessend | initln | halt => cases k <;> cases h

theorem sessbeg_of_acquire {p : Params} {i : Instr} {k : Nat} (h : uopAt p i k = some .acquire) : i = .sessbeg := by
  obtain ⟨-, hs⟩ := uopAt_not_framing h rfl
  cases i <;> cases hs
  rfl

theorem sessend_of_release {p : Params} {i : Instr} {k : Nat} (h : uopAt p i k = some .release) : i = .sessend := by
  obtain ⟨-, hs⟩ := uopAt_not_framing h rfl
  cases i <;> cases hs
  rfl

theorem initln_of_setLines {p : Params} {i : Instr} {k : Nat} {valid : Bool} {tc td : Half}
    (h : uopAt p i k = some (.setLines valid tc td)) : i = .initln valid tc td := by
  obtain ⟨-, hs⟩ := uopAt_not_framing h rfl
  cases i <;> cases hs
  rfl

theorem halt_of_stopRun {p : Params} {i : Instr} {k : Nat} (h : uopAt p i k = some .stopRun) : i = .halt := by
  obtain ⟨-, hs⟩ := uopAt_not_framing h rfl
  cases i <;> cases hs
  rfl

end Sys2Proof.Machine
end

section
/-! PROOFS. What the static check of an operation promises where it passes (60 R202, item 5), and which codes it raises. -/

namespace Sys2Proof.Machine

open Claims (uopCount busOperation)

theorem checkSession_eq_none (s : State) : checkSession s = none ↔ s.owner = .self := by
  unfold checkSession
  split <;> simp_all

theorem checkRun_eq_none (count : Word) (s : State) : checkRun count s = none ↔ s.owner = .self ∧ count ≠ 0 := by
  have hz : count.toNat = 0 ↔ count = 0 := ⟨fun e => BitVec.eq_of_toNat_eq e, fun e => by rw [e]; rfl⟩
  unfold checkRun
  split
  · simp_all
  · split <;> simp_all

theorem checkBlit_eq_none (base count : Word) (s : State) :
    checkBlit base count s = none ↔
      (s.owner = .self ∧ count ≠ 0) ∧ base.toNat + count.toNat ≤ s.params.pmemSize := by
  rw [← checkRun_eq_none]
  unfold checkBlit
  cases checkRun count s with
  | none => simp
  | some c => simp

theorem checkSessbeg_eq_none (s : State) : checkSessbeg s = none ↔ s.owner ≠ .self := by
  unfold checkSessbeg
  split <;> simp_all

theorem checkSessend_eq_none (s : State) : checkSessend s = none ↔ s.owner = .self := by
  unfold checkSessend
  split <;> simp_all

theorem checkInitln_eq_none (valid : Bool) (tc td : Half) (s : State) :
    checkInitln valid tc td s = none ↔
      s.linesLocked = false ∧
        (valid = true → tc ≠ td ∧ tc ≠ s.params.sentinel ∧ td ≠ s.params.sentinel) := by
  unfold checkInitln
  split
  · simp_all
  · split
    · next hbad =>
      obtain ⟨hv, hbad⟩ := hbad
      exact ⟨nofun, fun hok => absurd hbad (by simp [hok.2 hv])⟩
    · simp_all

theorem checkHalt_eq_none (s : State) : checkHalt s = none ↔ s.owner ≠ .self := by
  unfold checkHalt
  split <;> simp_all

/-- An operation that submits frames needs the session (40 R117). -/
theorem owner_of_staticCheck {i : Instr} {s : State} (hi : busOperation i = true) (h : staticCheck i s = none) :
    s.owner = .self := by
  cases i with
  | sendb | sendw | setwin => exact (checkSession_eq_none s).1 h
  | fill color count => exact ((checkRun_eq_none count s).1 h).1
  | blit base count => exact ((checkBlit_eq_none base count s).1 h).1.1
  | sessbeg | sessend | initln | halt => cases hi

/-- An operation whose check passes has a micro-operation: only a run of count 0 has none. -/
theorem uopCount_pos_of_staticCheck {i : Instr} {s : State} (h : staticCheck i s = none) : 0 < uopCount i := by
  cases i with
  | sendb sel frm v => cases frm <;> simp [uopCount]
  | sendw sel frm v => cases frm <;> simp [uopCount]
  | fill color count =>
    obtain ⟨-, hc⟩ := (checkRun_eq_none count s).1 h
    rw [uopCount, if_neg hc]
    omega
  | blit base count =>
    obtain ⟨⟨-, hc⟩, -⟩ := (checkBlit_eq_none base count s).1 h
    rw [uopCount, if_neg hc]
    omega
  | setwin | sessbeg | sessend | initln | halt => simp [uopCount]

/-- A static check reads the parameters, whether the block has the session, and the lock of the lines. -/
theorem staticCheck_congr (i : Instr) {s t : State} (hp : t.params = s.params) (ho : t.owner = .self ↔ s.owner = .self)
    (hl : t.linesLocked = s.linesLocked) : staticCheck i t = staticCheck i s := by
  cases i <;>
    simp only [staticCheck, checkSession, checkRun, checkBlit, checkSessbeg, checkSessend, checkInitln, checkHalt, hp, ho, hl,
      ne_eq]

/-- The one source a framing unit submits (40 R101). -/
theorem src_of_submit_mem_unit {sel sel' : LineSel} {src src' : Src} {last : Bool}
    (h : Uop.submit sel' src' last ∈ unitC sel src ∨ Uop.submit sel' src' last ∈ unitL8 sel src ∨
      Uop.submit sel' src' last ∈ unitL16 sel src) : src' = src := by
  simp only [unitC, unitL8, unitL16, List.mem_cons, List.not_mem_nil, Uop.submit.injEq, reduceCtorEq, or_false,
    false_or] at h
  obtain h | h | h := h <;> exact h.2.1

theorem src_of_submit_runUop {count k : Nat} {pixel : Nat → Src} {sel : LineSel} {src : Src} {last : Bool}
    (h : runUop count pixel k = some (.submit sel src last)) : ∃ n, n < count ∧ src = pixel n := by
  obtain ⟨n, hn, hu | hu⟩ := mem_unit_of_runUop h
  · exact ⟨n, hn, src_of_submit_mem_unit (.inl hu)⟩
  · exact ⟨n, hn, src_of_submit_mem_unit (.inr (.inr hu))⟩

/-- The PMEM element an operation submits is one of a BLIT's source range (42 R141). -/
theorem blit_of_submit_pmem {p : Params} {i : Instr} {k a : Nat} {sel : LineSel} {last : Bool}
    (h : uopAt p i k = some (.submit sel (.pmem a) last)) :
    ∃ base count, i = .blit base count ∧ a < base.toNat + count.toNat := by
  cases i with
  | sendb sel' frm v =>
    have hu := List.mem_of_getElem? h
    cases frm with
    | cont => cases src_of_submit_mem_unit (.inl hu)
    | last => cases src_of_submit_mem_unit (.inr (.inl hu))
  | sendw sel' frm v =>
    have hu := List.mem_of_getElem? h
    cases frm with
    | cont => cases src_of_submit_mem_unit (.inl hu)
    | last => cases src_of_submit_mem_unit (.inr (.inr hu))
  | setwin x0 y0 x1 y1 =>
    have hu := List.mem_of_getElem? h
    simp only [setwinUops, List.mem_append] at hu
    rcases hu with (((((hu | hu) | hu) | hu) | hu) | hu) | hu <;> cases src_of_submit_mem_unit (.inl hu)
  | fill color count =>
    obtain ⟨n, -, hs⟩ := src_of_submit_runUop (pixel := fun _ => .half color) h
    cases hs
  | blit base count =>
    obtain ⟨n, hn, hs⟩ := src_of_submit_runUop (pixel := fun n => .pmem (base.toNat + n)) h
    cases hs
    exact ⟨base, count, rfl, by omega⟩
  | sessbeg | sessend | initln | halt => cases k <;> cases h

/-- A SUBMIT of an operation whose check passes has a value to send: no read past the end of PMEM (20 R52, 42 R142). -/
theorem readSrc_ne_none {i : Instr} {k : Nat} {sel : LineSel} {src : Src} {last : Bool} {s : State}
    (h : uopAt s.params i k = some (.submit sel src last)) (hc : staticCheck i s = none) : readSrc s src ≠ none := by
  cases src with
  | byte | half => simp [readSrc]
  | pmem a =>
    obtain ⟨base, count, rfl, ha⟩ := blit_of_submit_pmem h
    obtain ⟨-, hsize⟩ := (checkBlit_eq_none base count s).1 hc
    simp [readSrc, readPmem, show a < s.params.pmemSize by omega]

/-- A static check raises no PortNotIdle (60 R201, R202). -/
theorem staticCheck_ne_portNotIdle (i : Instr) (s : State) : staticCheck i s ≠ some .portNotIdle := by
  cases i <;>
    simp only [staticCheck, checkSession, checkRun, checkBlit, checkSessbeg, checkSessend, checkInitln, checkHalt] <;>
    split_ifs <;> simp

end Sys2Proof.Machine
end

section
/-! PROOFS. What one step does, said once: the sequencer's step as one of eight updates, the sequencer's effect on the registers
outside its own control, and a step that restarts nothing as the move of one agent (00 R12, 30 R84, 40 R100). -/

namespace Sys2Proof.Machine

open Claims (between atUop goesOnRunning)

/-! ### What a performed micro-operation writes -/

/-- What a performed micro-operation did, with the facts it found (`perform_done`, one constructor per case). -/
inductive UopDid (s : State) : Uop → State → Prop
  | submit (sel : LineSel) (src : Src) (last : Bool) (v : Payload) (room : s.level < s.params.fifoDepth) :
    UopDid s (.submit sel src last) (s.enqueue ⟨tokOf s sel, v, last⟩)
  | waitLe : UopDid s .waitLe s
  | clearTcf : UopDid s .clearTcf s.clearTcf
  | waitEmpty : UopDid s .waitEmpty s
  | waitTcf : UopDid s .waitTcf s
  | acquire (ho : s.owner = .none) (hq : s.quiescent = true) : UopDid s .acquire s.openSession
  | release (saved : BusCfg) (hq : s.quiescent = true) : UopDid s .release (s.closeSession saved)
  | installLines (tc td : Half) : UopDid s (.setLines true tc td) (s.installLines tc td)
  | lockLines (tc td : Half) : UopDid s (.setLines false tc td) s.lockLines

theorem uopDid_of_perform {u : Uop} {s x : State} (h : perform u s = .done x) : UopDid s u x := by
  obtain ⟨hh, ⟨sel, src, last, v, rfl, room, -, rfl⟩ | ⟨rfl, rfl⟩ | ⟨rfl, rfl⟩ | ⟨rfl, rfl⟩ | ⟨rfl, rfl⟩ | ⟨rfl, hq, rfl⟩ |
    ⟨saved, rfl, hq, -, rfl⟩ | ⟨tc, td, rfl, rfl⟩ | ⟨tc, td, rfl, rfl⟩⟩ := perform_done h
  · exact .submit sel src last v room
  · exact .waitLe
  · exact .clearTcf
  · exact .waitEmpty
  · exact .waitTcf
  · exact .acquire (by simpa [State.holds] using hh) hq
  · exact .release saved hq
  · exact .installLines tc td
  · exact .lockLines tc td

/-- Only ACQUIRE and RELEASE write the owner (10 R27). -/
theorem UopDid.owner {u : Uop} {s x : State} (h : UopDid s u x) :
    x.owner = s.owner ∨ (s.owner = .none ∧ x.owner = .self ∧ u = .acquire) ∨ (x.owner = .none ∧ u = .release) := by
  cases h with
  | acquire ho => exact .inr (.inl ⟨ho, rfl, rfl⟩)
  | release => exact .inr (.inr ⟨rfl, rfl⟩)
  | submit | waitLe | clearTcf | waitEmpty | waitTcf | installLines | lockLines => exact .inl rfl

/-- Only SETLINES writes the tokens and the line flags (43 R163). -/
theorem UopDid.lines {u : Uop} {s x : State} (h : UopDid s u x) :
    (x.tokCmd = s.tokCmd ∧ x.tokData = s.tokData ∧ x.linesLocked = s.linesLocked ∧ x.linesValid = s.linesValid) ∨
      ∃ valid tc td, u = .setLines valid tc td := by
  cases h with
  | installLines tc td => exact .inr ⟨true, tc, td, rfl⟩
  | lockLines tc td => exact .inr ⟨false, tc, td, rfl⟩
  | submit | waitLe | clearTcf | waitEmpty | waitTcf | acquire | release => exact .inl ⟨rfl, rfl, rfl, rfl⟩

/-- No micro-operation writes chip select, and only CLEAR_TCF the completion flag (40 R106). -/
theorem UopDid.flags {u : Uop} {s x : State} (h : UopDid s u x) :
    x.cs = s.cs ∧ (x.tcf = s.tcf ∨ (u = .clearTcf ∧ x.tcf = false)) := by
  cases h with
  | clearTcf => exact ⟨rfl, .inr ⟨rfl, rfl⟩⟩
  | submit | waitLe | waitEmpty | waitTcf | acquire | release | installLines | lockLines => exact ⟨rfl, .inl rfl⟩

/-- No micro-operation that goes on writes the mode, `dp` or the parameters. -/
theorem UopDid.control {u : Uop} {s x : State} (h : UopDid s u x) :
    x.mode = s.mode ∧ x.dp = s.dp ∧ x.params = s.params := by
  cases h <;> exact ⟨rfl, rfl, rfl⟩

/-! ### The sequencer -/

/-- What a step of the sequencer did, with the facts it found. -/
inductive SequencerDid (s : State) : State → Prop
  /-- it had no step: stopped, or at a micro-operation that holds -/
  | idle : SequencerDid s s
  /-- the decoder rejected the descriptor -/
  | rejected (hb : between s) (e : DecodeError) : SequencerDid s (s.raise (decodeFault e))
  /-- the static check failed -/
  | refused (hb : between s) (i : Instr) (c : FaultCode) (hc : staticCheck i s = some c) : SequencerDid s (s.raise c)
  /-- DECODE found no fault -/
  | began (hb : between s) (i : Instr) (rest : List Word) (hd : decode (fetchWords s) = .ok i rest)
      (hc : staticCheck i s = none) : SequencerDid s (s.begin i)
  /-- the micro-operation faulted -/
  | raised (i : Instr) (k : Nat) (ha : atUop i k s) (u : Uop) (hu : uopAt s.params i k = some u) (c : FaultCode)
      (hp : perform u s = .raised c) : SequencerDid s (s.raise c)
  /-- HALT's STOP -/
  | stopped (i : Instr) (k : Nat) (ha : atUop i k s) (hu : uopAt s.params i k = some .stopRun) : SequencerDid s s.stop
  /-- the micro-operation was performed, and another one follows -/
  | advanced (i : Instr) (k : Nat) (ha : atUop i k s) (u : Uop) (hu : uopAt s.params i k = some u) (x : State)
      (hp : UopDid s u x) (hn : uopAt s.params i (k + 1) ≠ none) : SequencerDid s (x.advance i k)
  /-- the last micro-operation was performed -/
  | retired (i : Instr) (k : Nat) (ha : atUop i k s) (u : Uop) (hu : uopAt s.params i k = some u) (x : State)
      (hp : UopDid s u x) (hn : uopAt s.params i (k + 1) = none) : SequencerDid s (x.retire i.words)

theorem sequencerDid_of_exec {i : Instr} {k : Nat} {s t : State} (ha : atUop i k s) (h : exec i s = .next t) :
    SequencerDid s t := by
  rw [exec_exec i k s ha.1 ha.2] at h
  obtain ⟨u, hu, ⟨x, hp, ⟨hn, rfl⟩ | ⟨hn, rfl⟩⟩ | ⟨rfl, rfl⟩ | ⟨-, rfl⟩ | ⟨c, hp, rfl⟩⟩ := execStep_next h
  · exact .advanced i k ha u hu x (uopDid_of_perform hp) (Option.isSome_iff_ne_none.1 hn)
  · exact .retired i k ha u hu x (uopDid_of_perform hp) (by simpa using hn)
  · exact .stopped i k ha hu
  · exact .idle
  · exact .raised i k ha u hu c hp

theorem sequencerDid_of_next {s t : State} (h : sequencerStep s = .next t) : SequencerDid s t := by
  obtain ⟨-, rfl⟩ | ⟨⟨i, k⟩, hm, hc, h⟩ | ⟨i, rest, hm, hc, hd, h⟩ | ⟨e, hm, hc, -, rfl⟩ := sequencerStep_next h
  · exact .idle
  · exact sequencerDid_of_exec ⟨hm, hc⟩ h
  · rw [exec_decode i s hm hc] at h
    injection h with h
    subst h
    cases hk : staticCheck i s with
    | none => exact .began ⟨hm, hc⟩ i rest hd hk
    | some c => exact .refused ⟨hm, hc⟩ i c hk
  · exact .rejected ⟨hm, hc⟩ e

/-- In HALTED and FAULTED the sequencer does nothing (10 R22). -/
theorem SequencerDid.eq_of_stopped {s t : State} (h : SequencerDid s t) (hm : s.mode ≠ .run) : t = s := by
  cases h with
  | idle => rfl
  | rejected hb | refused hb | began hb => exact absurd hb.1 hm
  | raised _ _ ha | stopped _ _ ha | advanced _ _ ha | retired _ _ ha => exact absurd ha.1 hm

theorem curUop_eq_some {s : State} {u : Uop} :
    s.curUop = some u ↔ ∃ a, s.cur = some a ∧ uopAt s.params a.op a.k = some u := by
  unfold State.curUop
  cases s.cur with
  | none => simp
  | some a => simp

/-- Two states are equal in everything but the sequencer's control registers: mode, `dp`, `cur` and the fault registers. -/
structure SameButControl (x t : State) : Prop where
  params : t.params = x.params
  dmem : t.dmem = x.dmem
  pmem : t.pmem = x.pmem
  tokCmd : t.tokCmd = x.tokCmd
  tokData : t.tokData = x.tokData
  linesLocked : t.linesLocked = x.linesLocked
  linesValid : t.linesValid = x.linesValid
  owner : t.owner = x.owner
  busCfg : t.busCfg = x.busCfg
  savedCfg : t.savedCfg = x.savedCfg
  txq : t.txq = x.txq
  shifter : t.shifter = x.shifter
  tcf : t.tcf = x.tcf
  cs : t.cs = x.cs
  wire : t.wire = x.wire
  fromRun : t.fromRun = x.fromRun
  schedule : t.schedule = x.schedule
  policy : t.policy = x.policy
  draws : t.draws = x.draws

/-- Outside its control registers a step of the sequencer writes what one performed micro-operation writes, or nothing. -/
theorem SequencerDid.performs {s t : State} (h : SequencerDid s t) :
    ∃ x, (x = s ∨ ∃ u, s.curUop = some u ∧ UopDid s u x) ∧ SameButControl x t := by
  cases h with
  | idle | rejected | refused | began | raised | stopped => exact ⟨s, .inl rfl, by constructor <;> rfl⟩
  | advanced i k ha u hu x hp | retired i k ha u hu x hp =>
    exact ⟨x, .inr ⟨u, curUop_eq_some.2 ⟨⟨i, k⟩, ha.2, hu⟩, hp⟩, by constructor <;> rfl⟩

/-! ### The step -/

@[simp] theorem curUop_useMove (s : State) : (useMove s).curUop = s.curUop := by
  simp [State.curUop]

/-- What a step that is no reset and no launch did: nothing, or one agent's move. -/
inductive StepDid (s : State) : State → Prop
  | nobody (hm : nextMove s = none) : StepDid s s
  | sequencer (hm : nextMove s = some .sequencer) (t : State) (hd : SequencerDid (useMove s) t) : StepDid s t
  | engine (hm : nextMove s = some .engine) : StepDid s (engineStep (useMove s))
  | otherAcquire (hm : nextMove s = some .otherAcquire) : StepDid s (otherAcquire (useMove s))
  | otherRelease (cfg : BusCfg) (tcf : Bool) (hm : nextMove s = some (.otherRelease cfg tcf)) :
    StepDid s (otherRelease cfg tcf (useMove s))

theorem stepDid_of_next {s t : State} (h : step s = .next t) (hr : goesOnRunning s = true) : StepDid s t := by
  obtain ⟨m, hm, h⟩ | ⟨hm, rfl⟩ := step_next h
  · rw [goesOnRunning, hm] at hr
    cases m with
    | sequencer => exact .sequencer hm t (sequencerDid_of_next h)
    | engine => cases h; exact .engine hm
    | otherAcquire => cases h; exact .otherAcquire hm
    | otherRelease cfg tcf => cases h; exact .otherRelease cfg tcf hm
    | reset | launch => cases hr
  · exact .nobody hm

theorem engineStep_control (s : State) :
    (engineStep s).mode = s.mode ∧ (engineStep s).fault = s.fault ∧ (engineStep s).faultDp = s.faultDp ∧
      (engineStep s).dp = s.dp ∧ (engineStep s).cur = s.cur ∧ (engineStep s).owner = s.owner := by
  obtain ⟨f, -, h⟩ | ⟨f, rest, -, -, h⟩ | ⟨-, -, h⟩ := engineStep_cases s <;> rw [h] <;> exact ⟨rfl, rfl, rfl, rfl, rfl, rfl⟩

/-- OTHER_ACQUIRE writes the owner alone (43 R166). -/
theorem otherAcquire_cases (s : State) :
    (s.owner = .none ∧ otherAcquire s = s.otherTakes) ∨ (s.owner ≠ .none ∧ otherAcquire s = s) := by
  unfold otherAcquire
  split
  · next h => exact .inl ⟨h, rfl⟩
  · next h => exact .inr ⟨h, rfl⟩

/-- OTHER_RELEASE writes the owner, the configuration and the flag (43 R167). -/
theorem otherRelease_cases (cfg : BusCfg) (tcf : Bool) (s : State) :
    (s.owner = .other ∧ otherRelease cfg tcf s = s.otherGives cfg tcf) ∨
      (s.owner ≠ .other ∧ otherRelease cfg tcf s = s) := by
  unfold otherRelease
  split
  · next h => exact .inl ⟨h, rfl⟩
  · next h => exact .inr ⟨h, rfl⟩

end Sys2Proof.Machine
end

section
/-! PROOFS. What single steps write: the sequencer's control registers, the arbiter's owner, the flags, a stopped block, a restart
(10 R22 to R33, R37; 40 R100, R109). -/

namespace Sys2Proof.Machine

open Claims (uopCount wordCount)

/-- Settles O9: the sequencer's move is `sequencerStep`, which asks for the mode and then for the operation in progress. -/
theorem stepContinuesTheOperation : Obligations.StepContinuesTheOperation := by
  intro s hm
  rw [step_sequencer hm]
  constructor
  · intro a hr hc
    simp [sequencerStep, hr, hc]
  · intro hr
    cases hmode : s.mode with
    | run => exact absurd hmode hr
    | halted | faulted => simp [sequencerStep, hmode]

/-- Settles O26, update by update of the sequencer: whether another micro-operation follows is whether `k + 1` is below the
operation's count. -/
theorem operationsAdvanceOrRetire : Obligations.OperationsAdvanceOrRetire := by
  intro s t i k ha h
  obtain ⟨hrun, hcur⟩ := ha
  rw [exec_exec i k s hrun hcur] at h
  obtain ⟨u, hu, hcase⟩ := execStep_next h
  have hk : k < uopCount i := (expansionsHaveTheirLength s.params i k).1 (by rw [hu]; rfl)
  have hnext := expansionsHaveTheirLength s.params i (k + 1)
  obtain ⟨x, hp, hx⟩ | ⟨rfl, rfl⟩ | ⟨-, rfl⟩ | ⟨c, -, rfl⟩ := hcase
  · obtain ⟨hmode, hdp, -⟩ := (uopDid_of_perform hp).control
    obtain ⟨hn, rfl⟩ | ⟨hn, rfl⟩ := hx
    · simp [hmode, hrun, hdp, hnext.1 hn]
    · have hlast : k + 1 = uopCount i := by
        rw [← Bool.not_eq_true, hnext] at hn
        omega
      simp [hmode, hrun, hdp, hlast, words_eq_wordCount]
  · simp [halt_of_stopRun hu]
  · simp [hrun]
  · simp

/-- Settles O30: a stopped sequencer does nothing, and the other agents write none of its registers. -/
theorem stoppedBlockStaysStopped : Obligations.StoppedBlockStaysStopped := by
  intro s t h hm hr
  cases stepDid_of_next h hr with
  | nobody => simp
  | sequencer _ _ hd =>
    rw [hd.eq_of_stopped (by simpa using hm)]
    simp
  | engine he =>
    obtain ⟨hmode, hfault, hfaultDp, hdp, hcur, howner⟩ := engineStep_control (useMove s)
    simp [hmode, hfault, hfaultDp, hdp, hcur, howner, he]
  | otherAcquire ho =>
    obtain ⟨-, e⟩ | ⟨-, e⟩ := otherAcquire_cases (useMove s) <;> simp [e, ho]
  | otherRelease cfg tcf ho =>
    obtain ⟨-, e⟩ | ⟨-, e⟩ := otherRelease_cases cfg tcf (useMove s) <;> simp [e, ho]

/-- Settles O38, agent by agent. -/
theorem ownerChangesOnlyByTheArbiter : Obligations.OwnerChangesOnlyByTheArbiter := by
  intro s t h hr
  cases stepDid_of_next h hr with
  | nobody => exact .inl rfl
  | sequencer hm _ hd =>
    obtain ⟨x, hx, ht⟩ := hd.performs
    rw [ht.owner]
    obtain rfl | ⟨u, hu, hd⟩ := hx
    · exact .inl (useMove_owner s)
    · rw [curUop_useMove] at hu
      obtain hsame | ⟨hfree, hself, rfl⟩ | ⟨hfree, rfl⟩ := hd.owner
      · exact .inl (by rw [hsame, useMove_owner])
      · exact .inr (.inl ⟨by rw [← hfree, useMove_owner], hself, hm, hu⟩)
      · exact .inr (.inr (.inl ⟨hfree, hm, hu⟩))
  | engine =>
    obtain ⟨-, -, -, -, -, howner⟩ := engineStep_control (useMove s)
    exact .inl (by rw [howner, useMove_owner])
  | otherAcquire hm =>
    obtain ⟨ho, e⟩ | ⟨-, e⟩ := otherAcquire_cases (useMove s)
    · exact .inr (.inr (.inr (.inl ⟨by simpa using ho, by rw [e]; rfl, hm⟩)))
    · exact .inl (by rw [e, useMove_owner])
  | otherRelease cfg tcf hm =>
    obtain ⟨ho, e⟩ | ⟨-, e⟩ := otherRelease_cases cfg tcf (useMove s)
    · exact .inr (.inr (.inr (.inr ⟨by simpa using ho, by rw [e]; rfl, cfg, tcf, hm⟩)))
    · exact .inl (by rw [e, useMove_owner])

/-- Chip select falls with a LAST-tagged frame only (40 R113). -/
theorem csAfter_eq_false (f : Frame) (cs : Bool) : csAfter f cs = false ↔ f.last = true ∨ cs = false := by
  unfold csAfter
  split <;> simp_all

/-- The completion flag rises with the frames its mode names, and never falls (40 R113). -/
theorem tcfAfter_eq_true (mode : TcfMode) (f : Frame) (tcf : Bool) :
    tcfAfter mode f tcf = true ↔ (mode = .eachFrame ∨ f.last = true) ∨ tcf = true := by
  unfold tcfAfter
  split <;> simp_all

/-- Settles O40, agent by agent: the sequencer clears the completion flag alone, START raises chip select, FINISH does what
`tcfAfter` and `csAfter` say of its frame. -/
theorem flagsChangeOnlyByTheirRules : Obligations.FlagsChangeOnlyByTheirRules := by
  intro s t h hr
  cases stepDid_of_next h hr with
  | nobody => simp_all
  | sequencer hm _ hd =>
    obtain ⟨x, hx, ht⟩ := hd.performs
    rw [ht.cs, ht.tcf]
    obtain rfl | ⟨u, hu, hd⟩ := hx
    · simp_all
    · rw [curUop_useMove] at hu
      obtain ⟨hcs, hsame | ⟨rfl, hclear⟩⟩ := hd.flags <;> simp_all
  | engine hm =>
    obtain ⟨f, hf, e⟩ | ⟨f, rest, hf, hq, e⟩ | ⟨-, -, e⟩ := engineStep_cases (useMove s)
    · rw [useMove_shifter] at hf
      simp +contextual [e, hm, hf, csAfter_eq_false, tcfAfter_eq_true]
    · rw [useMove_shifter] at hf
      rw [useMove_txq] at hq
      simp_all
    · simp_all
  | otherAcquire hm =>
    obtain ⟨-, e⟩ | ⟨-, e⟩ := otherAcquire_cases (useMove s) <;> simp_all
  | otherRelease cfg tcf hm =>
    obtain ⟨-, e⟩ | ⟨-, e⟩ := otherRelease_cases cfg tcf (useMove s) <;> simp_all

/-! ### Restart -/

/-- Loaded from address 0 into an empty memory, an existing address reads as the image, or as zero past its end. -/
theorem Mem.read_load_empty {w : Nat} (size a : Nat) (image : List (BitVec w)) (h : a < size) :
    (Mem.load size 0 image []).read a = image.getD a 0 := by
  have hload := Mem.read_load size image 0 a [] rfl (by omega)
  rw [Nat.zero_add] at hload
  rw [hload, List.getD_eq_getElem?_getD]
  rfl

/-- Settles O32: the move is `afterReset`, after the load of both memories where it is a launch. -/
theorem restartGivesTheResetValues : Obligations.RestartGivesTheResetValues := by
  intro s
  constructor
  · intro other hm
    simp [step, oneStep, hm, takeMove, State.afterReset]
  · intro other program pixels hm
    refine ⟨Mem.load s.params.dmemWords 0 program [], Mem.load s.params.pmemSize 0 pixels [], ?_,
      fun a ha => Mem.read_load_empty _ a program ha, fun a ha => Mem.read_load_empty _ a pixels ha⟩
    simp [step, oneStep, hm, takeMove, State.afterReset, State.loadMemories]

end Sys2Proof.Machine
end

section
/-! PROOFS. The invariant of the block: every update of the state that a step makes keeps it (10 R21 to R29; 43 R159 to R165; 60
R200, R201), so every step does. -/

namespace Sys2Proof.Machine

/-! ### The invariant apart from the operation in progress -/

/-- The conjuncts of the invariant that do not speak of the operation in progress. -/
structure RegistersOk (s : State) : Prop where
  memory : s.memoryOk = true
  port : s.portOk = true
  session : s.sessionOk = true
  lines : s.linesOk = true
  fault : s.faultOk = true
  dp : s.dpOk = true

theorem inv_iff (s : State) : s.Inv ↔ RegistersOk s ∧ s.progressOk = true :=
  ⟨fun ⟨hm, hp, hs, hl, hf, hd, hg⟩ => ⟨⟨hm, hp, hs, hl, hf, hd⟩, hg⟩,
    fun ⟨⟨hm, hp, hs, hl, hf, hd⟩, hg⟩ => ⟨hm, hp, hs, hl, hf, hd, hg⟩⟩

/-- What the invariant says of an operation in progress. -/
theorem inProgress_of_inv {s : State} {a : Active} (h : s.Inv) (hc : s.cur = some a) :
    s.mode = .run ∧ uopAt s.params a.op a.k ≠ none ∧ s.dp + a.op.words ≤ s.params.dmemWords ∧ staticCheck a.op s = none :=
  ((progressOk_iff s).1 ((inv_iff s).1 h).2).2 a hc

theorem progressOk_of_cur_eq_none {s : State} (hc : s.cur = none) (h : s.mode = .halted → s.owner ≠ .self) :
    s.progressOk = true :=
  (progressOk_iff s).2 ⟨fun _ => h, fun _ ha => absurd (hc.symm.trans ha) nofun⟩

theorem progressOk_of_cur_eq_some {s : State} {a : Active} (hc : s.cur = some a) (hm : s.mode = .run)
    (hu : uopAt s.params a.op a.k ≠ none) (hd : s.dp + a.op.words ≤ s.params.dmemWords) (hk : staticCheck a.op s = none) :
    s.progressOk = true := by
  refine (progressOk_iff s).2 ⟨fun h => absurd (hc.symm.trans h) nofun, fun b hb => ?_⟩
  cases hc.symm.trans hb
  exact ⟨hm, hu, hd, hk⟩

/-- A move of another agent leaves the operation in progress in order: whether the block has the session does not change. -/
theorem progressOk_of_same {s t : State} (h : s.progressOk = true) (hc : t.cur = s.cur) (hm : t.mode = s.mode)
    (hd : t.dp = s.dp) (hp : t.params = s.params) (hl : t.linesLocked = s.linesLocked)
    (ho : t.owner = .self ↔ s.owner = .self) : t.progressOk = true := by
  rw [progressOk_iff] at h ⊢
  simpa only [hc, hm, hd, hp, ne_eq, ho, staticCheck_congr _ hp ho hl] using h

/-- Outside a session nothing is in the port (43 R159). -/
theorem owner_of_port_busy {s : State} (h : s.sessionOk = true) (hb : s.txq ≠ [] ∨ s.shifter ≠ none) : s.owner = .self := by
  by_contra ho
  obtain ⟨hq, hs, -⟩ := ((sessionOk_iff s).1 h).2 ho
  exact hb.elim (· hq) (· hs)

/-! ### The sequencer's updates -/

theorem code_toNat_between (c : FaultCode) : 1 ≤ c.code.toNat ∧ c.code.toNat ≤ 14 := by
  cases c <;> decide

theorem RegistersOk.raise {s : State} (h : RegistersOk s) (c : FaultCode) : RegistersOk (s.raise c) where
  __ := h
  fault := (faultOk_iff _).2 ⟨fun _ => code_toNat_between c, fun hm => absurd rfl hm⟩

theorem RegistersOk.stop {s : State} (h : RegistersOk s) (hm : s.mode = .run) : RegistersOk s.stop where
  __ := h
  fault := (faultOk_iff _).2 ⟨nofun, fun _ => ((faultOk_iff s).1 h.fault).2 (by simp [hm])⟩

theorem RegistersOk.retire {s : State} (h : RegistersOk s) {len : Nat} (hd : s.dp + len ≤ s.params.dmemWords) :
    RegistersOk (s.retire len) where
  __ := h
  dp := (dpOk_iff _).2 hd

theorem RegistersOk.enqueue {s : State} (h : RegistersOk s) (f : Frame) (room : s.level < s.params.fifoDepth)
    (ho : s.owner = .self) : RegistersOk (s.enqueue f) where
  __ := h
  port := (portOk_iff _).2 ⟨by simpa [State.level] using room, ((portOk_iff s).1 h.port).2⟩
  session := (sessionOk_iff _).2 ⟨((sessionOk_iff s).1 h.session).1, fun hn => absurd ho hn⟩

theorem RegistersOk.openSession {s : State} (h : RegistersOk s) : RegistersOk s.openSession where
  __ := h
  session := (sessionOk_iff _).2 ⟨fun _ => ⟨nofun, rfl⟩, fun hn => absurd rfl hn⟩

theorem RegistersOk.closeSession {s : State} (h : RegistersOk s) (saved : BusCfg) (hq : s.quiescent = true) :
    RegistersOk (s.closeSession saved) where
  __ := h
  session := (sessionOk_iff _).2 ⟨nofun, fun _ => (quiescent_iff s).1 hq⟩

theorem RegistersOk.installLines {s : State} (h : RegistersOk s) (tc td : Half)
    (hv : tc ≠ td ∧ tc ≠ s.params.sentinel ∧ td ≠ s.params.sentinel) : RegistersOk (s.installLines tc td) where
  __ := h
  lines := (linesOk_iff _).2 ⟨fun _ => ⟨rfl, hv⟩, nofun⟩

theorem RegistersOk.lockLines {s : State} (h : RegistersOk s) : RegistersOk s.lockLines where
  __ := h
  lines := by
    obtain ⟨hvalid, hnone⟩ := (linesOk_iff s).1 h.lines
    exact (linesOk_iff _).2 ⟨fun hv => ⟨rfl, (hvalid hv).2⟩, hnone⟩

/-- A micro-operation of an operation whose static check passed keeps the invariant apart from the operation in progress. -/
theorem UopDid.registersOk {i : Instr} {k : Nat} {u : Uop} {s x : State} (hd : UopDid s u x) (h : RegistersOk s)
    (hu : uopAt s.params i k = some u) (hc : staticCheck i s = none) : RegistersOk x := by
  cases hd with
  | submit sel src last v room => exact h.enqueue _ room (owner_of_staticCheck (busOperation_of_submit hu) hc)
  | clearTcf => exact { h with }
  | waitLe | waitEmpty | waitTcf => exact h
  | acquire => exact h.openSession
  | release saved hq => exact h.closeSession saved hq
  | installLines tc td =>
    cases initln_of_setLines hu
    exact h.installLines tc td (((checkInitln_eq_none true tc td s).1 hc).2 rfl)
  | lockLines => exact h.lockLines

/-- A framing micro-operation writes nothing a static check reads. -/
theorem UopDid.staticCheck_eq {u : Uop} {s x : State} (hd : UopDid s u x) (hf : u.isFraming = true) (i : Instr) :
    staticCheck i x = staticCheck i s := by
  cases hd with
  | submit | waitLe | clearTcf | waitEmpty | waitTcf => exact staticCheck_congr i rfl .rfl rfl
  | acquire | release | installLines | lockLines => cases hf

/-- The words fetched lie inside DMEM (30 R84). -/
theorem dp_add_length_fetchWords_le {s : State} (h : s.dp ≤ s.params.dmemWords) :
    s.dp + (fetchWords s).length ≤ s.params.dmemWords := by
  simp only [fetchWords, List.filterMap_cons, List.filterMap_nil, readDmem]
  split_ifs <;> simp <;> omega

/-- A descriptor that decodes lies inside DMEM. -/
theorem dp_add_words_le {s : State} {i : Instr} {rest : List Word} (h : s.dpOk = true)
    (hd : decode (fetchWords s) = .ok i rest) : s.dp + i.words ≤ s.params.dmemWords := by
  obtain ⟨w0, tail, op, hw, -, hlen, -, rfl, -⟩ := decode_ok hd
  have hfetch := dp_add_length_fetchWords_le ((dpOk_iff s).1 h)
  rw [hw, List.length_cons] at hfetch
  rw [Instr.words, op_operands]
  omega

/-- Every step of the sequencer keeps the invariant. -/
theorem SequencerDid.inv {s t : State} (hd : SequencerDid s t) (h : s.Inv) : t.Inv := by
  obtain ⟨hreg, hprog⟩ := (inv_iff s).1 h
  rw [inv_iff]
  cases hd with
  | idle => exact ⟨hreg, hprog⟩
  | rejected _ e => exact ⟨hreg.raise _, progressOk_of_cur_eq_none rfl nofun⟩
  | refused _ i c => exact ⟨hreg.raise c, progressOk_of_cur_eq_none rfl nofun⟩
  | raised i k _ u _ c => exact ⟨hreg.raise c, progressOk_of_cur_eq_none rfl nofun⟩
  | began hb i rest hd hc =>
    have huop : (uopAt s.params i 0).isSome = true :=
      (expansionsHaveTheirLength s.params i 0).2 (uopCount_pos_of_staticCheck hc)
    have hcheck : staticCheck i (s.begin i) = none := 
      (staticCheck_congr (s := s) (t := s.begin i) i rfl .rfl rfl).trans hc
    exact ⟨{ hreg with },
      progressOk_of_cur_eq_some rfl hb.1 (Option.isSome_iff_ne_none.1 huop) (dp_add_words_le hreg.dp hd) hcheck⟩
  | stopped i k ha hu =>
    obtain ⟨hrun, -, -, hcheck⟩ := inProgress_of_inv h ha.2
    cases halt_of_stopRun hu
    exact ⟨hreg.stop hrun, progressOk_of_cur_eq_none rfl fun _ => (checkHalt_eq_none s).1 hcheck⟩
  | advanced i k ha u hu x hd hn =>
    obtain ⟨hrun, -, hdp, hcheck⟩ := inProgress_of_inv h ha.2
    obtain ⟨hmode, hxdp, hparams⟩ := hd.control
    have hx : RegistersOk x := hd.registersOk hreg hu hcheck
    have hframing : u.isFraming = true := isFraming_of_busOperation (busOperation_of_uopAt_succ hn) hu
    have hcheck' : staticCheck i (x.advance i k) = none :=
      (staticCheck_congr (s := x) (t := x.advance i k) i rfl .rfl rfl).trans ((hd.staticCheck_eq hframing i).trans hcheck)
    exact ⟨{ hx with },
      progressOk_of_cur_eq_some rfl (hmode.trans hrun) (by simpa [hparams] using hn) (by simpa [hxdp, hparams] using hdp)
        hcheck'⟩
  | retired i k ha u hu x hd =>
    obtain ⟨hrun, -, hdp, hcheck⟩ := inProgress_of_inv h ha.2
    obtain ⟨hmode, hxdp, hparams⟩ := hd.control
    have hx : RegistersOk x := hd.registersOk hreg hu hcheck
    exact ⟨hx.retire (by simpa [hxdp, hparams] using hdp), progressOk_of_cur_eq_none rfl fun hh => by simp [hmode, hrun] at hh⟩

/-! ### The other agents' updates -/

theorem inv_startShift {s : State} {f : Frame} {rest : List Frame} (h : s.Inv) (hq : s.txq = f :: rest) :
    (s.startShift f rest).Inv := by
  obtain ⟨hreg, hprog⟩ := (inv_iff s).1 h
  have ho : s.owner = .self := owner_of_port_busy hreg.session (.inl (by simp [hq]))
  have hlevel := ((portOk_iff s).1 hreg.port).1
  rw [hq, List.length_cons] at hlevel
  have hreg' : RegistersOk (s.startShift f rest) :=
    { hreg with
      port := (portOk_iff _).2 ⟨Nat.le_of_succ_le hlevel, .inr rfl⟩
      session := (sessionOk_iff _).2 ⟨((sessionOk_iff s).1 hreg.session).1, fun hn => absurd ho hn⟩ }
  exact (inv_iff _).2 ⟨hreg', progressOk_of_same hprog rfl rfl rfl rfl rfl .rfl⟩

theorem inv_finishShift {s : State} {f : Frame} (h : s.Inv) (hs : s.shifter = some f) : (s.finishShift f).Inv := by
  obtain ⟨hreg, hprog⟩ := (inv_iff s).1 h
  have ho : s.owner = .self := owner_of_port_busy hreg.session (.inr (by simp [hs]))
  have hreg' : RegistersOk (s.finishShift f) :=
    { hreg with
      port := (portOk_iff _).2 ⟨((portOk_iff s).1 hreg.port).1, .inl rfl⟩
      session := (sessionOk_iff _).2 ⟨((sessionOk_iff s).1 hreg.session).1, fun hn => absurd ho hn⟩ }
  exact (inv_iff _).2 ⟨hreg', progressOk_of_same hprog rfl rfl rfl rfl rfl .rfl⟩

theorem inv_engineStep {s : State} (h : s.Inv) : (engineStep s).Inv := by
  obtain ⟨f, hs, e⟩ | ⟨f, rest, -, hq, e⟩ | ⟨-, -, e⟩ := engineStep_cases s
  · rw [e]
    exact inv_finishShift h hs
  · rw [e]
    exact inv_startShift h hq
  · rw [e]
    exact h

theorem inv_otherAcquire {s : State} (h : s.Inv) : (otherAcquire s).Inv := by
  obtain ⟨ho, e⟩ | ⟨-, e⟩ := otherAcquire_cases s
  · rw [e]
    obtain ⟨hreg, hprog⟩ := (inv_iff s).1 h
    have hquiet := ((sessionOk_iff s).1 hreg.session).2 (by simp [ho])
    have hreg' : RegistersOk s.otherTakes := { hreg with session := (sessionOk_iff _).2 ⟨nofun, fun _ => hquiet⟩ }
    exact (inv_iff _).2 ⟨hreg', progressOk_of_same hprog rfl rfl rfl rfl rfl (by simp [ho])⟩
  · rw [e]
    exact h

theorem inv_otherRelease {s : State} (cfg : BusCfg) (tcf : Bool) (h : s.Inv) : (otherRelease cfg tcf s).Inv := by
  obtain ⟨ho, e⟩ | ⟨-, e⟩ := otherRelease_cases cfg tcf s
  · rw [e]
    obtain ⟨hreg, hprog⟩ := (inv_iff s).1 h
    have hquiet := ((sessionOk_iff s).1 hreg.session).2 (by simp [ho])
    have hreg' : RegistersOk (s.otherGives cfg tcf) := { hreg with session := (sessionOk_iff _).2 ⟨nofun, fun _ => hquiet⟩ }
    exact (inv_iff _).2 ⟨hreg', progressOk_of_same hprog rfl rfl rfl rfl rfl (by simp [ho])⟩
  · rw [e]
    exact h

theorem launchDp_le_of_wf {p : Params} (h : p.wf = true) : p.launchDp ≤ p.dmemWords := by
  simp only [Params.wf, Params.memoryWf, Bool.and_eq_true, decide_eq_true_eq] at h
  omega

/-- A reset establishes the invariant wherever the memories are in order. -/
theorem inv_afterReset {s : State} (other : Bool) (hw : s.params.wf = true) (hm : s.memoryOk = true) :
    (s.afterReset other).Inv := by
  have howner : (s.afterReset other).owner ≠ .self := by cases other <;> nofun
  exact ⟨hm, (portOk_iff _).2 ⟨Nat.zero_le _, .inl rfl⟩, (sessionOk_iff _).2 ⟨fun h => absurd h howner, fun _ => ⟨rfl, rfl, rfl⟩⟩,
    (linesOk_iff _).2 ⟨nofun, fun _ => ⟨rfl, rfl⟩⟩, (faultOk_iff _).2 ⟨nofun, fun _ => ⟨rfl, rfl⟩⟩,
    (dpOk_iff _).2 (launchDp_le_of_wf hw), progressOk_of_cur_eq_none rfl fun _ => howner⟩

theorem memoryOk_loadMemories (s : State) (program : List Word) (pixels : List Half) :
    (s.loadMemories program pixels).memoryOk = true := by
  simp only [State.memoryOk, State.loadMemories, Bool.and_eq_true]
  exact ⟨⟨⟨Mem.wf_load _ _ _ _ rfl, Mem.within_load _ _ _ _ rfl⟩, Mem.wf_load _ _ _ _ rfl⟩, Mem.within_load _ _ _ _ rfl⟩

/-- The schedule and the counter of free values are outside the invariant. -/
theorem inv_useMove {s : State} (h : s.Inv) : (useMove s).Inv := by
  obtain ⟨ms, d, e⟩ := useMove_eq s
  obtain ⟨hreg, hprog⟩ := (inv_iff s).1 h
  rw [e, inv_iff]
  exact ⟨{ hreg with }, progressOk_of_same hprog rfl rfl rfl rfl rfl .rfl⟩

/-- Settles O42: the next move acts on a state with the invariant, and each agent's update keeps it. -/
theorem invIsKeptByEveryStep : Obligations.InvIsKeptByEveryStep := by
  intro s t hw hinv h
  obtain ⟨m, -, h⟩ | ⟨-, rfl⟩ := step_next h
  · have hu : (useMove s).Inv := inv_useMove hinv
    have hwu : (useMove s).params.wf = true := by rw [useMove_params, hw]
    cases m with
    | sequencer => exact (sequencerDid_of_next h).inv hu
    | engine => cases h; exact inv_engineStep hu
    | otherAcquire => cases h; exact inv_otherAcquire hu
    | otherRelease cfg tcf => cases h; exact inv_otherRelease cfg tcf hu
    | reset other => cases h; exact inv_afterReset other hwu ((inv_iff _).1 hu).1.memory
    | launch other program pixels =>
      cases h
      exact inv_afterReset other hwu (memoryOk_loadMemories _ program pixels)
  · exact hinv

end Sys2Proof.Machine
end

section
/-! PROOFS. What follows from the invariant of the block: every step answers a next state and never by PortNotIdle, the lines are
written once, and `State.reset` has it (20 R52; 43 R160, R163; 10 R37). -/

namespace Sys2Proof.Machine

/-! ### No step stops -/

/-- Under the invariant no micro-operation meets a stop of the model (log 16). -/
theorem perform_ne_stuck {i : Instr} {k : Nat} {u : Uop} {s : State} (h : s.Inv) (hc : s.cur = some ⟨i, k⟩)
    (hu : uopAt s.params i k = some u) (f : Fault) : perform u s ≠ .stuck f := by
  intro hp
  obtain ⟨-, -, -, hcheck⟩ := inProgress_of_inv h hc
  obtain ⟨sel, src, last, rfl, hread, -⟩ | ⟨rfl, -, hsaved, -⟩ := perform_stuck hp
  · exact readSrc_ne_none hu hcheck hread
  · cases sessend_of_release hu
    have ho : s.owner = .self := (checkSessend_eq_none s).1 hcheck
    exact (((sessionOk_iff s).1 ((inv_iff s).1 h).1.session).1 ho).1 hsaved

theorem execStep_next_of_perform {i : Instr} {uop : Nat → Option Uop} {k : Nat} {u : Uop} {s : State} (hu : uop k = some u)
    (hp : ∀ f, perform u s ≠ .stuck f) : ∃ t, execStep i uop k s = .next t := by
  rw [execStep_eq_outcome hu]
  cases h : perform u s with
  | done | stopped | held | raised => exact ⟨_, rfl⟩
  | stuck f => exact absurd h (hp f)

theorem sequencerStep_answers {s : State} (h : s.Inv) : ∃ t, sequencerStep s = .next t := by
  unfold sequencerStep
  cases hm : s.mode with
  | halted | faulted => exact ⟨s, rfl⟩
  | run =>
    cases hc : s.cur with
    | some a =>
      obtain ⟨i, k⟩ := a
      obtain ⟨-, hsome, -, -⟩ := inProgress_of_inv h hc
      obtain ⟨u, hu⟩ := Option.ne_none_iff_exists'.1 hsome
      simp only [exec_exec i k s hm hc]
      exact execStep_next_of_perform hu (perform_ne_stuck h hc hu)
    | none =>
      cases decode (fetchWords s) with
      | ok i rest => exact ⟨_, exec_decode i s hm hc⟩
      | error e => exact ⟨_, rfl⟩

/-! ### PortNotIdle is not raised -/

/-- Code 13 is PortNotIdle's (60 R201). -/
theorem eq_portNotIdle_of_raise {c : FaultCode} {s : State} (h : (s.raise c).fault = 13) : c = .portNotIdle := by
  rw [State.raise_fault] at h
  revert h
  cases c <;> decide

theorem decodeFault_ne_portNotIdle (e : DecodeError) : decodeFault e ≠ .portNotIdle := by
  cases e <;> nofun

/-- The one source of PortNotIdle is an ACQUIRE, which finds the bus free, and then the port is quiescent (43 R159, R160). -/
theorem perform_ne_portNotIdle {u : Uop} {s : State} (h : s.sessionOk = true) : perform u s ≠ .raised .portNotIdle := by
  intro hp
  obtain ⟨hh, ⟨_, _, _, -, -, hc⟩ | ⟨rfl, hq, -⟩ | ⟨-, -, hc⟩⟩ := perform_raised hp
  · cases hc
  · have hfree : s.owner = .none := by simpa [State.holds] using hh
    have hquiet := (quiescent_iff s).2 (((sessionOk_iff s).1 h).2 (by simp [hfree]))
    rw [hquiet] at hq
    cases hq
  · cases hc

theorem SequencerDid.fault_thirteen {s t : State} (hd : SequencerDid s t) (h : s.Inv) (ht : t.fault = 13) : s.fault = 13 := by
  cases hd with
  | idle | began | stopped => exact ht
  | rejected _ e => exact absurd (eq_portNotIdle_of_raise ht) (decodeFault_ne_portNotIdle e)
  | refused _ i c hc => exact absurd (eq_portNotIdle_of_raise ht ▸ hc) (staticCheck_ne_portNotIdle i s)
  | raised i k _ u _ c hp =>
    exact absurd (eq_portNotIdle_of_raise ht ▸ hp) (perform_ne_portNotIdle ((inv_iff s).1 h).1.session)
  | advanced i k _ u _ x hd | retired i k _ u _ x hd => cases hd <;> exact ht

/-- Settles O47: only the sequencer could stop or fault, and under the invariant it does not. -/
theorem stepNeverStops : Obligations.StepNeverStops := by
  intro s hw hinv
  have hu : (useMove s).Inv := inv_useMove hinv
  rw [← useMove_fault s]
  simp only [step, oneStep]
  cases nextMove s with
  | none => exact ⟨s, rfl, fun h => by rwa [useMove_fault]⟩
  | some m =>
    cases m with
    | sequencer =>
      obtain ⟨t, ht⟩ := sequencerStep_answers hu
      exact ⟨t, ht, (sequencerDid_of_next ht).fault_thirteen hu⟩
    | engine =>
      obtain ⟨-, hfault, -⟩ := engineStep_control (useMove s)
      exact ⟨_, rfl, fun h => hfault ▸ h⟩
    | otherAcquire =>
      refine ⟨_, rfl, fun h => ?_⟩
      obtain ⟨-, e⟩ | ⟨-, e⟩ := otherAcquire_cases (useMove s) <;> rwa [e] at h
    | otherRelease cfg tcf =>
      refine ⟨_, rfl, fun h => ?_⟩
      obtain ⟨-, e⟩ | ⟨-, e⟩ := otherRelease_cases cfg tcf (useMove s) <;> rwa [e] at h
    | reset | launch => exact ⟨_, rfl, fun h => absurd h (show (0 : BitVec 8) ≠ 13 by decide)⟩

/-! ### The lines -/

theorem engineStep_lines (s : State) :
    (engineStep s).tokCmd = s.tokCmd ∧ (engineStep s).tokData = s.tokData ∧
      (engineStep s).linesLocked = s.linesLocked ∧ (engineStep s).linesValid = s.linesValid := by
  obtain ⟨f, -, h⟩ | ⟨f, rest, -, -, h⟩ | ⟨-, -, h⟩ := engineStep_cases s <;> rw [h] <;> exact ⟨rfl, rfl, rfl, rfl⟩

/-- Settles O39: a SETLINES in progress would be an INITLN whose check found the lines unlocked. -/
theorem lineTokensAreWrittenOnce : Obligations.LineTokensAreWrittenOnce := by
  intro s t hinv hlock h hr
  cases stepDid_of_next h hr with
  | nobody => simp [hlock]
  | sequencer _ _ hd =>
    obtain ⟨x, hx, ht⟩ := hd.performs
    rw [ht.tokCmd, ht.tokData, ht.linesLocked, ht.linesValid]
    obtain rfl | ⟨u, hu, hd⟩ := hx
    · simp [hlock]
    · obtain ⟨hcmd, hdata, hlocked, hvalid⟩ | ⟨valid, tc, td, rfl⟩ := hd.lines
      · simp [hcmd, hdata, hlocked, hvalid, hlock]
      · obtain ⟨a, ha, hu⟩ := curUop_eq_some.1 hu
        obtain ⟨-, -, -, hcheck⟩ := inProgress_of_inv (inv_useMove hinv) ha
        rw [initln_of_setLines hu] at hcheck
        have hunlocked := ((checkInitln_eq_none valid tc td (useMove s)).1 hcheck).1
        rw [useMove_linesLocked, hlock] at hunlocked
        cases hunlocked
  | engine =>
    obtain ⟨hcmd, hdata, hlocked, hvalid⟩ := engineStep_lines (useMove s)
    simp [hcmd, hdata, hlocked, hvalid, hlock]
  | otherAcquire =>
    obtain ⟨-, e⟩ | ⟨-, e⟩ := otherAcquire_cases (useMove s) <;> simp [e, hlock]
  | otherRelease cfg tcf =>
    obtain ⟨-, e⟩ | ⟨-, e⟩ := otherRelease_cases cfg tcf (useMove s) <;> simp [e, hlock]

/-! ### State.reset -/

theorem default_wf : Params.default.wf = true := by decide

/-- `State.reset` is what a reset makes of it: the reset table's values are those of `State.afterReset` (log 11). -/
theorem reset_eq_afterReset : State.reset = State.reset.afterReset false := rfl

/-- Settles O31, field by field. -/
theorem resetHasTheTablesValues : Obligations.ResetHasTheTablesValues :=
  ⟨rfl, rfl, rfl, rfl, rfl, rfl, rfl, rfl, rfl, rfl, rfl, rfl, rfl, rfl, rfl, rfl, rfl, rfl, default_wf⟩

/-- Settles O41: a reset establishes the invariant; with no operation in progress and an empty port there is room. -/
theorem invariantsHoldAtReset : Obligations.InvariantsHoldAtReset := by
  refine ⟨?_, (handshakeOk_iff _).2 ⟨Nat.zero_le _, rfl⟩⟩
  rw [reset_eq_afterReset]
  exact inv_afterReset false default_wf rfl

end Sys2Proof.Machine
end

section
/-! PROOFS. The status registers (10 R35, R36): each field read back from its word, and the values after a reset. -/

namespace Sys2Proof.Machine

/-! ### Reading a placed field back -/

theorem extractLsb'_place_same {w : Nat} (lo : Nat) (field : BitVec w) (h : lo + w ≤ 32) :
    (place lo field).extractLsb' lo w = field := by
  ext i hi
  rw [BitVec.getElem_extractLsb', getLsbD_place lo field _ (by omega)]
  simp [BitVec.getLsbD_eq_getElem hi]

theorem extractLsb'_place_disjoint {w : Nat} (lo a n : Nat) (field : BitVec w) (h32 : a + n ≤ 32)
    (h : a + n ≤ lo ∨ lo + w ≤ a) : (place lo field).extractLsb' a n = 0 := by
  ext i hi
  rw [BitVec.getElem_extractLsb', getLsbD_place lo field _ (by omega), BitVec.ofNat_eq_ofNat, BitVec.getElem_zero]
  obtain h | h := h
  · simp [show ¬ lo ≤ a + i by omega]
  · simp [BitVec.getLsbD_of_ge field (a + i - lo) (by omega)]

/-! ### STATUS -/

theorem mode_statusWord (s : State) : (statusWord s).extractLsb' 0 2 = modeField s.mode := by
  simp (disch := omega) [statusWord, BitVec.extractLsb'_or, extractLsb'_place_same, extractLsb'_place_disjoint]

theorem level_statusWord (s : State) : (statusWord s).extractLsb' 8 8 = BitVec.ofNat 8 s.level := by
  simp (disch := omega) [statusWord, BitVec.extractLsb'_or, extractLsb'_place_same, extractLsb'_place_disjoint]

theorem owner_statusWord (s : State) : (statusWord s).extractLsb' 16 2 = ownerField s.owner := by
  simp (disch := omega) [statusWord, BitVec.extractLsb'_or, extractLsb'_place_same, extractLsb'_place_disjoint]

/-- Bits [31:18] of STATUS are reserved. -/
theorem reserved_statusWord (s : State) : (statusWord s).extractLsb' 18 14 = 0 := by
  simp (disch := omega) [statusWord, BitVec.extractLsb'_or, extractLsb'_place_disjoint]

/-- The one-bit fields of STATUS. -/
theorem flags_statusWord (s : State) :
    (statusWord s).getLsbD 2 = decide (s.owner = .self) ∧ (statusWord s).getLsbD 3 = s.tcf ∧
      (statusWord s).getLsbD 4 = s.shifter.isSome ∧ (statusWord s).getLsbD 5 = s.cs ∧
      (statusWord s).getLsbD 6 = s.linesLocked ∧ (statusWord s).getLsbD 7 = s.linesValid := by
  simp (disch := decide) only [statusWord, BitVec.getLsbD_or, getLsbD_place]
  simp

/-- After a reset STATUS shows the launch owner and nothing else. -/
theorem statusWord_afterReset (s : State) (other : Bool) :
    statusWord (s.afterReset other) = if other then 0x00020000 else 0 := by
  cases other with
  | true =>
    have h : statusWord (s.afterReset true) = place 16 (ownerField .other) := by simp [statusWord, State.level, place, modeField]
    exact h.trans (by decide)
  | false => simp [statusWord, State.level, place, modeField, ownerField]

/-- Settles O56: register by register. -/
theorem statusRegistersShowTheState : Obligations.StatusRegistersShowTheState := by
  intro s
  obtain ⟨hsession, htcf, hbusy, hcs, hlocked, hvalid⟩ := flags_statusWord s
  refine ⟨⟨_, rfl, ?_, hsession, htcf, hbusy, hcs, hlocked, hvalid, fun hlevel => ?_, ?_, reserved_statusWord s⟩,
    ⟨_, rfl, extractLsb'_place_same 0 s.fault (by omega), extractLsb'_place_disjoint 0 8 24 s.fault (by omega) (by omega)⟩,
    rfl, ⟨_, rfl, fun hdp => ?_⟩, ⟨_, rfl, lowHalf_halvesWord _ _, highHalf_halvesWord _ _⟩, fun n hn => ?_,
    fun n v => rfl, fun other => ⟨?_, rfl, rfl, rfl, _, rfl, lowHalf_halvesWord _ _, highHalf_halvesWord _ _⟩⟩
  · rw [mode_statusWord]
    cases s.mode <;> rfl
  · rw [level_statusWord, BitVec.toNat_ofNat, Nat.mod_eq_of_lt]
    · rfl
    · exact Nat.lt_succ_of_le hlevel
  · rw [owner_statusWord]
    cases s.owner <;> rfl
  · rw [BitVec.toNat_ofNat, Nat.mod_eq_of_lt hdp]
  · obtain ⟨k, rfl⟩ := Nat.exists_eq_add_of_le' hn
    rfl
  · exact congrArg Except.ok (statusWord_afterReset s other)

end Sys2Proof.Machine
end

section
/-! PROOFS. Noninterference of the completion flag (10 R32, 43 R167). Outside a WAIT_TCF a step reads the flag nowhere, so stepping
and then forgetting the flag gives the same result whether or not it was forgotten before the step. -/

namespace Sys2Proof.Machine

/-- The state with its completion flag forgotten. -/
def forgetTcf (s : State) : State := { s with tcf := false }

/-- What is forgotten can be put back. -/
theorem eq_of_forgetTcf_eq {t t' : State} (h : forgetTcf t' = forgetTcf t) : t' = { t with tcf := t'.tcf } :=
  calc t' = { forgetTcf t' with tcf := t'.tcf } := rfl
    _ = { forgetTcf t with tcf := t'.tcf } := by rw [h]

/-! ### What is read does not depend on the flag -/

@[simp] theorem forgetTcf_params (s : State) : (forgetTcf s).params = s.params := rfl
@[simp] theorem forgetTcf_mode (s : State) : (forgetTcf s).mode = s.mode := rfl
@[simp] theorem forgetTcf_cur (s : State) : (forgetTcf s).cur = s.cur := rfl
@[simp] theorem forgetTcf_owner (s : State) : (forgetTcf s).owner = s.owner := rfl
@[simp] theorem forgetTcf_txq (s : State) : (forgetTcf s).txq = s.txq := rfl
@[simp] theorem forgetTcf_shifter (s : State) : (forgetTcf s).shifter = s.shifter := rfl
@[simp] theorem forgetTcf_savedCfg (s : State) : (forgetTcf s).savedCfg = s.savedCfg := rfl
@[simp] theorem forgetTcf_schedule (s : State) : (forgetTcf s).schedule = s.schedule := rfl
@[simp] theorem forgetTcf_policy (s : State) : (forgetTcf s).policy = s.policy := rfl

@[simp] theorem forgetTcf_forgetTcf (s : State) : forgetTcf (forgetTcf s) = forgetTcf s := rfl
@[simp] theorem level_forgetTcf (s : State) : (forgetTcf s).level = s.level := rfl
@[simp] theorem quiescent_forgetTcf (s : State) : (forgetTcf s).quiescent = s.quiescent := rfl
@[simp] theorem curUop_forgetTcf (s : State) : (forgetTcf s).curUop = s.curUop := rfl
@[simp] theorem engineEnabled_forgetTcf (s : State) : (forgetTcf s).engineEnabled = s.engineEnabled := rfl
@[simp] theorem fetchWords_forgetTcf (s : State) : fetchWords (forgetTcf s) = fetchWords s := rfl
@[simp] theorem tokOf_forgetTcf (s : State) (sel : LineSel) : tokOf (forgetTcf s) sel = tokOf s sel := by cases sel <;> rfl
@[simp] theorem readSrc_forgetTcf (s : State) (src : Src) : readSrc (forgetTcf s) src = readSrc s src := by cases src <;> rfl

@[simp] theorem staticCheck_forgetTcf (i : Instr) (s : State) : staticCheck i (forgetTcf s) = staticCheck i s :=
  staticCheck_congr i rfl .rfl rfl

/-- The flag decides one hold only, that of WAIT_TCF (40 R108). -/
theorem holds_forgetTcf {u : Uop} (s : State) (hu : u ≠ .waitTcf) : (forgetTcf s).holds u = s.holds u := by
  cases u with
  | waitTcf => exact absurd rfl hu
  | submit | waitLe | clearTcf | waitEmpty | acquire | release | setLines | stopRun => rfl

theorem sequencerEnabled_forgetTcf {s : State} (h : s.curUop ≠ some .waitTcf) :
    (forgetTcf s).sequencerEnabled = s.sequencerEnabled := by
  unfold State.sequencerEnabled
  rw [forgetTcf_mode, curUop_forgetTcf]
  cases hu : s.curUop with
  | none => rfl
  | some u =>
    have hne : u ≠ .waitTcf := fun e => h (by rw [hu, e])
    simp only [holds_forgetTcf s hne]

/-! ### Micro-operations -/

/-- What performing a micro-operation gives, with the flag in its state forgotten. -/
def Performed.forgetTcf : Performed → Performed
  | .done s => .done (Machine.forgetTcf s)
  | .stopped s => .stopped (Machine.forgetTcf s)
  | .held => .held
  | .raised c => .raised c
  | .stuck f => .stuck f

theorem perform_forgetTcf {u : Uop} (s : State) (hu : u ≠ .waitTcf) :
    (perform u (forgetTcf s)).forgetTcf = (perform u s).forgetTcf := by
  unfold perform
  rw [holds_forgetTcf s hu]
  split
  · rfl
  · cases u with
    | submit sel src last =>
      simp only [doSubmit, forgetTcf_params, level_forgetTcf, readSrc_forgetTcf, tokOf_forgetTcf]
      split
      · rfl
      · cases readSrc s src <;> rfl
    | acquire => cases h : s.quiescent <;> simp only [doAcquire, quiescent_forgetTcf, h] <;> rfl
    | release =>
      cases h : s.quiescent <;> cases hb : s.savedCfg <;>
        simp only [doRelease, quiescent_forgetTcf, forgetTcf_savedCfg, h, hb] <;> rfl
    | setLines valid tc td => cases valid <;> rfl
    | waitLe | clearTcf | waitEmpty | waitTcf | stopRun => rfl

/-! ### The agents -/

/-- The outcome of a step, with the flag in its next state forgotten. -/
def forgetTcfNext : Host.Outcome State Fault Refusal → Host.Outcome State Fault Refusal
  | .next s => .next (forgetTcf s)
  | .fault f => .fault f
  | .refused r => .refused r

@[simp] theorem forgetTcfNext_next (s : State) : forgetTcfNext (.next s) = .next (forgetTcf s) := rfl

theorem forgetTcfNext_eq_next {o : Host.Outcome State Fault Refusal} {t : State} (h : forgetTcfNext o = .next t) :
    ∃ s, o = .next s ∧ forgetTcf s = t := by
  cases o with
  | next s => exact ⟨s, rfl, by simpa using h⟩
  | fault | refused => cases h

theorem forgetTcfNext_outcome (i : Instr) (k : Nat) (more : Bool) (s : State) (p : Performed) :
    forgetTcfNext (p.outcome i k more s) = p.forgetTcf.outcome i k more (forgetTcf s) := by
  cases p with
  | done t => cases more <;> rfl
  | stopped | held | raised | stuck => rfl

theorem execStep_forgetTcf {uop : Nat → Option Uop} {k : Nat} (i : Instr) (s : State) (h : uop k ≠ some .waitTcf) :
    forgetTcfNext (execStep i uop k (forgetTcf s)) = forgetTcfNext (execStep i uop k s) := by
  cases hu : uop k with
  | none => simp only [execStep, hu]
  | some u =>
    have hne : u ≠ .waitTcf := fun e => h (by rw [hu, e])
    simp only [execStep_eq_outcome hu, forgetTcfNext_outcome, perform_forgetTcf s hne, forgetTcf_forgetTcf]

theorem forgetTcf_decodeStep (i : Instr) (check : Option FaultCode) (s : State) :
    forgetTcf (decodeStep i check s) = decodeStep i check (forgetTcf s) := by
  cases check <;> rfl

theorem sequencerStep_forgetTcf {s : State} (h : s.curUop ≠ some .waitTcf) :
    forgetTcfNext (sequencerStep (forgetTcf s)) = forgetTcfNext (sequencerStep s) := by
  simp only [sequencerStep, forgetTcf_mode, forgetTcf_cur, fetchWords_forgetTcf]
  cases hm : s.mode with
  | halted | faulted => rfl
  | run =>
    cases hc : s.cur with
    | some a =>
      have hu : uopAt s.params a.op a.k ≠ some .waitTcf := fun e => h (curUop_eq_some.2 ⟨a, hc, e⟩)
      simp only [exec_exec a.op a.k s hm hc, exec_exec a.op a.k (forgetTcf s) hm hc, forgetTcf_params]
      exact execStep_forgetTcf a.op s hu
    | none =>
      cases decode (fetchWords s) with
      | ok i rest =>
        simp only [exec_decode i s hm hc, exec_decode i (forgetTcf s) hm hc, forgetTcfNext_next, forgetTcf_decodeStep,
          staticCheck_forgetTcf, forgetTcf_forgetTcf]
      | error e => rfl

theorem engineStep_forgetTcf (s : State) : forgetTcf (engineStep (forgetTcf s)) = forgetTcf (engineStep s) := by
  simp only [engineStep, forgetTcf_shifter, forgetTcf_txq]
  cases s.shifter with
  | some f => rfl
  | none => cases s.txq <;> rfl

theorem otherAcquire_forgetTcf (s : State) : forgetTcf (otherAcquire (forgetTcf s)) = forgetTcf (otherAcquire s) := by
  unfold otherAcquire
  rw [forgetTcf_owner]
  split <;> rfl

theorem otherRelease_forgetTcf (cfg : BusCfg) (tcf : Bool) (s : State) :
    forgetTcf (otherRelease cfg tcf (forgetTcf s)) = forgetTcf (otherRelease cfg tcf s) := by
  unfold otherRelease
  rw [forgetTcf_owner]
  split <;> rfl

theorem takeMove_forgetTcf (m : Move) {s : State} (h : s.curUop ≠ some .waitTcf) :
    forgetTcfNext (takeMove m (forgetTcf s)) = forgetTcfNext (takeMove m s) := by
  cases m with
  | sequencer => exact sequencerStep_forgetTcf h
  | engine => exact congrArg Host.Outcome.next (engineStep_forgetTcf s)
  | otherAcquire => exact congrArg Host.Outcome.next (otherAcquire_forgetTcf s)
  | otherRelease cfg tcf => exact congrArg Host.Outcome.next (otherRelease_forgetTcf cfg tcf s)
  | reset | launch => rfl

/-! ### The step -/

theorem nextMove_forgetTcf {s : State} (h : s.curUop ≠ some .waitTcf) : nextMove (forgetTcf s) = nextMove s := by
  unfold nextMove policyMove eagerMove
  rw [sequencerEnabled_forgetTcf h]
  rfl

theorem useMove_forgetTcf {s : State} (h : s.curUop ≠ some .waitTcf) : useMove (forgetTcf s) = forgetTcf (useMove s) := by
  simp only [useMove, usePolicy, forgetTcf_schedule, forgetTcf_policy, engineEnabled_forgetTcf, sequencerEnabled_forgetTcf h]
  cases s.schedule with
  | cons m ms => rfl
  | nil =>
    cases s.policy with
    | eager => dsimp only; split <;> rfl
    | repeated | free => rfl

/-- Outside a WAIT_TCF the flag in the state before a step decides only the flag in the state after it. -/
theorem step_forgetTcf {s : State} (h : s.curUop ≠ some .waitTcf) :
    forgetTcfNext (step (forgetTcf s)) = forgetTcfNext (step s) := by
  simp only [step, oneStep, nextMove_forgetTcf h, useMove_forgetTcf h]
  cases nextMove s with
  | none => rfl
  | some m => exact takeMove_forgetTcf m (by rwa [curUop_useMove])

/-- Settles O54: both states step as their common state with the flag forgotten does. -/
theorem completionFlagInfluencesOnlyItsWait : Obligations.CompletionFlagInfluencesOnlyItsWait := by
  intro s t b h hs
  have ht : forgetTcfNext (step { s with tcf := b }) = .next (forgetTcf t) := by
    calc forgetTcfNext (step { s with tcf := b })
        = forgetTcfNext (step (forgetTcf s)) := (step_forgetTcf (s := { s with tcf := b }) h).symm
      _ = forgetTcfNext (step s) := step_forgetTcf h
      _ = .next (forgetTcf t) := by rw [hs, forgetTcfNext_next]
  obtain ⟨t', hstep, hforget⟩ := forgetTcfNext_eq_next ht
  exact ⟨t'.tcf, by rw [hstep, ← eq_of_forgetTcf_eq hforget]⟩

end Sys2Proof.Machine
end

section
/-! PROOFS. The way of a frame from SUBMIT to the wire, and the memories no step writes (20 R57, R60, R69; 70 R230, R238). -/

namespace Sys2Proof.Machine

open Claims (runOperation)

/-! ### From SUBMIT to the wire -/

/-- A frame's way is the same in two states: the wire, the shifter, the queue, and the notes on its frames (log 28). -/
structure SamePort (s t : State) : Prop where
  wire : t.wire = s.wire
  shifter : t.shifter = s.shifter
  txq : t.txq = s.txq
  fromRun : t.fromRun = s.fromRun

theorem SamePort.trans {s t u : State} (h : SamePort s t) (h' : SamePort t u) : SamePort s u :=
  ⟨h'.wire.trans h.wire, h'.shifter.trans h.shifter, h'.txq.trans h.txq, h'.fromRun.trans h.fromRun⟩

theorem samePort_useMove (s : State) : SamePort s (useMove s) :=
  ⟨useMove_wire s, useMove_shifter s, useMove_txq s, useMove_fromRun s⟩

theorem samePort_otherAcquire (s : State) : SamePort s (otherAcquire s) := by
  obtain ⟨-, e⟩ | ⟨-, e⟩ := otherAcquire_cases s <;> rw [e] <;> exact ⟨rfl, rfl, rfl, rfl⟩

theorem samePort_otherRelease (cfg : BusCfg) (tcf : Bool) (s : State) : SamePort s (otherRelease cfg tcf s) := by
  obtain ⟨-, e⟩ | ⟨-, e⟩ := otherRelease_cases cfg tcf s <;> rw [e] <;> exact ⟨rfl, rfl, rfl, rfl⟩

theorem SameButControl.samePort {x t : State} (h : SameButControl x t) : SamePort x t :=
  ⟨h.wire, h.shifter, h.txq, h.fromRun⟩

/-- Of the micro-operations only SUBMIT touches a frame's way: it appends one frame (40 R104). -/
theorem UopDid.port {u : Uop} {s x : State} (h : UopDid s u x) :
    SamePort s x ∨ ∃ sel src f, u = .submit sel src f.last ∧ x = s.enqueue f := by
  cases h with
  | submit sel src last v => exact .inr ⟨sel, src, ⟨tokOf s sel, v, last⟩, rfl, rfl⟩
  | waitLe | clearTcf | waitEmpty | waitTcf | acquire | release | installLines | lockLines => exact .inl ⟨rfl, rfl, rfl, rfl⟩

/-- What a step that restarts nothing does to a frame's way: nothing, the sequencer's SUBMIT, or the engine's step. -/
theorem StepDid.port {s t : State} (h : StepDid s t) :
    SamePort s t ∨
    (∃ a sel src f, nextMove s = some .sequencer ∧ s.cur = some a ∧ s.curUop = some (.submit sel src f.last) ∧
      SamePort ((useMove s).enqueue f) t) ∨
    (nextMove s = some .engine ∧ t = engineStep (useMove s)) := by
  cases h with
  | nobody => exact .inl ⟨rfl, rfl, rfl, rfl⟩
  | sequencer hm _ hd =>
    obtain ⟨x, rfl | ⟨u, hu, hd⟩, ht⟩ := hd.performs
    · exact .inl ((samePort_useMove s).trans ht.samePort)
    · obtain hsame | ⟨sel, src, f, rfl, rfl⟩ := hd.port
      · exact .inl ((samePort_useMove s).trans (hsame.trans ht.samePort))
      · rw [curUop_useMove] at hu
        obtain ⟨a, ha, -⟩ := curUop_eq_some.1 hu
        exact .inr (.inl ⟨a, sel, src, f, hm, ha, hu, ht.samePort⟩)
  | engine hm => exact .inr (.inr ⟨hm, rfl⟩)
  | otherAcquire => exact .inl ((samePort_useMove s).trans (samePort_otherAcquire _))
  | otherRelease cfg tcf => exact .inl ((samePort_useMove s).trans (samePort_otherRelease cfg tcf _))

/-- Settles O35: of the steps that touch a frame's way only the engine's FINISH writes the wire. -/
theorem wireIsAppendOnly : Obligations.WireIsAppendOnly := by
  intro s t h hr
  obtain hsame | ⟨a, sel, src, f, -, -, -, hq⟩ | ⟨hm, rfl⟩ := (stepDid_of_next h hr).port
  · exact .inl hsame.wire
  · exact .inl (by rw [hq.wire, State.enqueue_wire, useMove_wire])
  · obtain ⟨f, hf, e⟩ | ⟨f, rest, -, -, e⟩ | ⟨-, -, e⟩ := engineStep_cases (useMove s)
    · exact .inr ⟨f, hm, by rw [← hf, useMove_shifter], by simp [e]⟩
    · exact .inl (by simp [e])
    · exact .inl (by simp [e])

/-- Every frame submitted since reset, oldest first: those on the wire, the one shifting, the queue (20 R60). -/
def State.submitted (s : State) : List Frame := s.wire.map WireFrame.frame ++ s.outstanding

theorem SamePort.submitted_eq {s t : State} (h : SamePort s t) : t.submitted = s.submitted := by
  simp only [State.submitted, State.outstanding, h.wire, h.shifter, h.txq]

/-- SUBMIT puts its frame at the end of the sequence. -/
theorem submitted_enqueue (s : State) (f : Frame) : (s.enqueue f).submitted = s.submitted ++ [f] := by
  simp [State.submitted, State.outstanding]

/-- START and FINISH move a frame on without changing the sequence. -/
theorem submitted_engineStep (s : State) : (engineStep s).submitted = s.submitted ∧ (engineStep s).fromRun = s.fromRun := by
  obtain ⟨f, hf, e⟩ | ⟨f, rest, hf, hq, e⟩ | ⟨-, -, e⟩ := engineStep_cases s
  · simp [e, State.submitted, State.outstanding, hf]
  · simp [e, State.submitted, State.outstanding, hf, hq]
  · simp [e]

/-- SUBMIT's note is whether the operation in progress is a pixel run (log 28). -/
theorem inRun_eq_runOperation {s : State} {a : Active} (h : s.cur = some a) : s.inRun = runOperation a.op := by
  unfold State.inRun
  rw [h]
  cases a with | mk op k => cases op <;> rfl

/-- Settles O37: on the sequence `State.submitted` SUBMIT appends, and the engine's step changes nothing. -/
theorem submitOrderIsWireOrder : Obligations.SubmitOrderIsWireOrder := by
  intro s t h hr
  change t.submitted = s.submitted ∧ t.fromRun = s.fromRun ∨
    ∃ a sel src f, nextMove s = some .sequencer ∧ s.cur = some a ∧ s.curUop = some (.submit sel src f.last) ∧
      t.submitted = s.submitted ++ [f] ∧ t.fromRun = s.fromRun ++ [runOperation a.op]
  have huse := samePort_useMove s
  obtain hsame | ⟨a, sel, src, f, hm, ha, hu, hq⟩ | ⟨-, rfl⟩ := (stepDid_of_next h hr).port
  · exact .inl ⟨hsame.submitted_eq, hsame.fromRun⟩
  · refine .inr ⟨a, sel, src, f, hm, ha, hu, ?_, ?_⟩
    · rw [hq.submitted_eq, submitted_enqueue, huse.submitted_eq]
    · rw [hq.fromRun, State.enqueue_fromRun, huse.fromRun, inRun_eq_runOperation (by rwa [useMove_cur])]
  · obtain ⟨hf, hn⟩ := submitted_engineStep (useMove s)
    exact .inl ⟨hf.trans huse.submitted_eq, hn.trans huse.fromRun⟩

/-! ### The memories -/

/-- The parameters and both memories are the same in two states. -/
structure SameMemories (s t : State) : Prop where
  params : t.params = s.params
  dmem : t.dmem = s.dmem
  pmem : t.pmem = s.pmem

theorem UopDid.sameMemories {u : Uop} {s x : State} (h : UopDid s u x) : SameMemories s x := by
  cases h <;> exact ⟨rfl, rfl, rfl⟩

theorem SequencerDid.sameMemories {s t : State} (h : SequencerDid s t) : SameMemories s t := by
  obtain ⟨x, rfl | ⟨u, -, hd⟩, ht⟩ := h.performs
  · exact ⟨ht.params, ht.dmem, ht.pmem⟩
  · obtain ⟨hp, hd, hm⟩ := hd.sameMemories
    exact ⟨ht.params.trans hp, ht.dmem.trans hd, ht.pmem.trans hm⟩

theorem engineStep_sameMemories (s : State) : SameMemories s (engineStep s) := by
  obtain ⟨f, -, e⟩ | ⟨f, rest, -, -, e⟩ | ⟨-, -, e⟩ := engineStep_cases s <;> rw [e] <;> exact ⟨rfl, rfl, rfl⟩

theorem otherAcquire_sameMemories (s : State) : SameMemories s (otherAcquire s) := by
  obtain ⟨-, e⟩ | ⟨-, e⟩ := otherAcquire_cases s <;> rw [e] <;> exact ⟨rfl, rfl, rfl⟩

theorem otherRelease_sameMemories (cfg : BusCfg) (tcf : Bool) (s : State) : SameMemories s (otherRelease cfg tcf s) := by
  obtain ⟨-, e⟩ | ⟨-, e⟩ := otherRelease_cases cfg tcf s <;> rw [e] <;> exact ⟨rfl, rfl, rfl⟩

/-- A launch keeps the parameters, and every other move the memories too (20 R69, 70 R230). -/
theorem takeMove_sameMemories {m : Move} {s t : State} (h : takeMove m s = .next t) :
    ((∃ other program pixels, m = .launch other program pixels) ∧ t.params = s.params) ∨ SameMemories s t := by
  cases m with
  | sequencer => exact .inr (sequencerDid_of_next h).sameMemories
  | engine => cases h; exact .inr (engineStep_sameMemories s)
  | otherAcquire => cases h; exact .inr (otherAcquire_sameMemories s)
  | otherRelease cfg tcf => cases h; exact .inr (otherRelease_sameMemories cfg tcf s)
  | reset other => cases h; exact .inr ⟨rfl, rfl, rfl⟩
  | launch other program pixels => cases h; exact .inl ⟨⟨other, program, pixels, rfl⟩, rfl⟩

/-- A step keeps the parameters, and unless it is a launch the memories too. -/
theorem step_sameMemories {s t : State} (h : step s = .next t) :
    ((∃ other program pixels, nextMove s = some (.launch other program pixels)) ∧ t.params = s.params) ∨
      SameMemories s t := by
  obtain ⟨m, hm, h⟩ | ⟨-, rfl⟩ := step_next h
  · obtain ⟨⟨other, program, pixels, rfl⟩, hp⟩ | ⟨hp, hd, hq⟩ := takeMove_sameMemories h
    · exact .inl ⟨⟨other, program, pixels, hm⟩, by rw [hp, useMove_params]⟩
    · exact .inr ⟨by rw [hp, useMove_params], by rw [hd, useMove_dmem], by rw [hq, useMove_pmem]⟩
  · exact .inr ⟨rfl, rfl, rfl⟩

/-- Every run meets MemFrozen: before it ends its next move is no launch (70 R230). -/
theorem memFrozen_of_isRun {r : Nat → State} (h : IsRun r) : MemFrozen r := by
  intro n hgoes
  obtain ⟨-, hmove⟩ := (runEnds_eq_false_iff (r n)).1 hgoes
  obtain ⟨⟨other, program, pixels, hm⟩, -⟩ | ⟨-, hd, hp⟩ := step_sameMemories (h n)
  · cases hmove _ hm
  · exact ⟨hd, hp⟩

/-- Settles O36: `step_sameMemories`, which makes every run meet MemFrozen, and the host port's check of the final state. -/
theorem memoriesAreNeverWritten : Obligations.MemoriesAreNeverWritten := by
  refine ⟨fun s t h => ?_, fun r => memFrozen_of_isRun, fun s hfinal => ⟨fun a w => if_pos hfinal, fun a v => if_pos hfinal⟩⟩
  obtain ⟨hlaunch, hp⟩ | ⟨hp, hd, hq⟩ := step_sameMemories h
  · exact ⟨hp, .inl hlaunch⟩
  · exact ⟨hp, .inr ⟨hd, hq⟩⟩

end Sys2Proof.Machine
end

section
/-! PROOFS. What the controller receives of a wire frame, and what makes it lose the frame memory (20 R55, R62 to R67; 42 R147;
43 R164). -/

namespace Sys2Proof.Machine

/-! ### The bytes of the delivered frames -/

/-- A bit of a byte is sent after the more significant ones (20 R55). -/
theorem getElem?_sentBits (v : Byte) {n : Nat} (h : n < 8) : (sentBits v)[n]? = some (v.getLsbD (7 - n)) := by
  interval_cases n <;> rfl

/-- With the lines not valid nothing is delivered (43 R164). -/
theorem delivered_of_lines_invalid {s : State} (h : s.linesValid = false) (f : WireFrame) : delivered s f = false := by
  simp [delivered, h]

theorem delivered_iff {s : State} {f : WireFrame} :
    delivered s f = true ↔
      s.linesValid = true ∧ s.tokCmd ≠ s.tokData ∧ (f.frame.tok = s.tokCmd ∨ f.frame.tok = s.tokData) := by
  simp only [delivered, Bool.and_eq_true, decide_eq_true_eq]
  tauto

/-- A frame with the command token is delivered as a command (20 R62). -/
theorem delivered_cmd {s : State} {f : WireFrame} (hv : s.linesValid = true) (hd : s.tokCmd ≠ s.tokData)
    (h : f.frame.tok = s.tokCmd) : delivered s f = true ∧ lineOf s f = .cmd :=
  ⟨delivered_iff.2 ⟨hv, hd, .inl h⟩, if_pos h⟩

/-- A frame with the data token is delivered as data (20 R62). -/
theorem delivered_data {s : State} {f : WireFrame} (hv : s.linesValid = true) (hd : s.tokCmd ≠ s.tokData)
    (h : f.frame.tok = s.tokData) : delivered s f = true ∧ lineOf s f = .data :=
  ⟨delivered_iff.2 ⟨hv, hd, .inr h⟩, if_neg (by rw [h]; exact hd.symm)⟩

/-- One frame more on the wire adds its bytes if it is delivered. -/
theorem controllerBytes_append {s : State} {front : List WireFrame} {f : WireFrame} (h : s.wire = front ++ [f]) :
    controllerBytes s = controllerBytes { s with wire := front } ++
      if delivered s f then f.frame.kindBytes (lineOf s f) else [] := by
  unfold controllerBytes
  rw [h, List.filter_append, List.flatMap_append, List.filter_singleton]
  congr 1
  cases hdel : delivered s f <;> simp

theorem controllerBytes_of_lines_invalid {s : State} (h : s.linesValid = false) : controllerBytes s = [] := by
  simp [controllerBytes, delivered_of_lines_invalid h]

/-- A controller that receives no byte knows no cell (43 R164). -/
theorem cell_of_lines_invalid {s : State} (h : s.linesValid = false) (x y : Nat) :
    (controllerView s).cell s.params x y = none := by
  obtain ⟨c, hview⟩ := controllerView_bytes s
  rw [hview, controllerBytes_of_lines_invalid h]
  simp [View.cell, View.start]

/-- Settles O57: the frame's bytes come last, as command or data bytes by its token. -/
theorem controllerReceivesTheDeliveredBytes : Obligations.ControllerReceivesTheDeliveredBytes := by
  refine ⟨fun v => rfl, fun v => rfl, fun v n => getElem?_sentBits v, fun s front f h => ?_,
    fun s h => ⟨controllerBytes_of_lines_invalid h, cell_of_lines_invalid h⟩⟩
  rw [controllerBytes_append h]
  congr 1
  by_cases hcmd : s.linesValid = true ∧ s.tokCmd ≠ s.tokData ∧ f.frame.tok = s.tokCmd
  · have ⟨hv, hd, htok⟩ := hcmd
    obtain ⟨hdel, hline⟩ := delivered_cmd hv hd htok
    rw [if_pos hdel, if_pos hcmd, hline, Frame.kindBytes]
  · rw [if_neg hcmd]
    by_cases hdata : s.linesValid = true ∧ s.tokCmd ≠ s.tokData ∧ f.frame.tok = s.tokData
    · have ⟨hv, hd, htok⟩ := hdata
      obtain ⟨hdel, hline⟩ := delivered_data hv hd htok
      rw [if_pos hdel, if_pos hdata, hline, Frame.kindBytes]
    · rw [if_neg hdata]
      refine if_neg fun hdel => ?_
      obtain ⟨hv, hd, htok | htok⟩ := delivered_iff.1 hdel
      · exact hcmd ⟨hv, hd, htok⟩
      · exact hdata ⟨hv, hd, htok⟩

/-! ### Losing the frame memory -/

@[simp] theorem forgetNamed_isOpen (p : Params) (c : Byte) (v : View) : (v.forgetNamed p c).isOpen = v.isOpen := rfl

/-- A command byte loses the memory at a pixel's odd first byte, and nothing makes it known again (20 R67). -/
theorem commandByte_lost (p : Params) (c : Byte) (v : View) : (v.commandByte p c).lost = (v.lost || v.half.isSome) := by
  unfold View.commandByte
  dsimp only
  split
  · rfl
  · split <;> rfl

/-- A command byte leaves a window open exactly if it is CMD_MEMWRITE (20 R65). -/
theorem commandByte_isOpen (p : Params) (c : Byte) (v : View) : (v.commandByte p c).isOpen = decide (c = p.cmdMemwrite) := by
  unfold View.commandByte
  dsimp only
  split
  · simp_all
  · split <;> simp_all

/-- A command other than the three makes every cell unknown (20 R65). -/
theorem commandByte_cells_other {p : Params} {c : Byte} (v : View) (hx : c ≠ p.cmdColset) (hy : c ≠ p.cmdRowset)
    (hm : c ≠ p.cmdMemwrite) : (v.commandByte p c).cells = [] := by
  simp [View.commandByte, hx, hy, hm]

/-- A command's parameter byte loses nothing (20 R64). -/
theorem addressByte_lost (p : Params) (c b : Byte) (v : View) : (v.addressByte p c b).lost = v.lost := by
  unfold View.addressByte
  dsimp only
  split <;> rfl

theorem addressByte_isOpen (p : Params) (c b : Byte) (v : View) : (v.addressByte p c b).isOpen = v.isOpen := by
  unfold View.addressByte
  dsimp only
  split <;> rfl

/-- A pixel byte keeps the memory lost. -/
theorem pixelByte_lost_of_lost (p : Params) (b : Byte) {v : View} (h : v.lost = true) : (v.pixelByte p b).lost = true := by
  unfold View.pixelByte
  split
  · split <;> exact h
  · rfl

/-- A pixel byte outside an open window loses the memory (20 R67). -/
theorem pixelByte_lost_of_closed (p : Params) (b : Byte) {v : View} (h : v.isOpen = false) : (v.pixelByte p b).lost = true := by
  simp [View.pixelByte, h]

/-- A pixel byte with unknown, unordered or out-of-range bounds loses the memory (20 R67). -/
theorem pixelByte_lost_of_bounds {p : Params} (b : Byte) {v : View} (h : v.bounds p = none) : (v.pixelByte p b).lost = true := by
  simp [View.pixelByte, h]

/-- A data byte after a command: a parameter of it, and a pixel's byte after CMD_MEMWRITE. -/
theorem dataByte_of_command (p : Params) (b : Byte) {v : View} {c : Byte} (h : v.command = some c) :
    ∃ w, (w = v ∨ (c = p.cmdColset ∨ c = p.cmdRowset) ∧ w = v.addressByte p c b) ∧
      v.dataByte p b = if c = p.cmdMemwrite then w.pixelByte p b else w := by
  unfold View.dataByte
  rw [h]
  by_cases hc : c = p.cmdColset ∨ c = p.cmdRowset
  · exact ⟨_, .inr ⟨hc, rfl⟩, by simp only [if_pos hc]⟩
  · exact ⟨v, .inl rfl, by simp only [if_neg hc]⟩

/-- Data before any command loses the memory (log 20). -/
theorem dataByte_lost_of_no_command (p : Params) (b : Byte) {v : View} (h : v.command = none) : (v.dataByte p b).lost = true := by
  simp [View.dataByte, h]

/-- A data byte keeps the memory lost. -/
theorem dataByte_lost_of_lost (p : Params) (b : Byte) {v : View} (h : v.lost = true) : (v.dataByte p b).lost = true := by
  cases hc : v.command with
  | none => exact dataByte_lost_of_no_command p b hc
  | some c =>
    obtain ⟨w, hw, e⟩ := dataByte_of_command p b hc
    have hlost : w.lost = true := by
      obtain rfl | ⟨-, rfl⟩ := hw
      · exact h
      · rw [addressByte_lost, h]
    rw [e]
    split
    · exact pixelByte_lost_of_lost p b hlost
    · exact hlost

/-- A data byte after CMD_MEMWRITE with the window closed loses the memory. -/
theorem dataByte_lost_of_closed (p : Params) (b : Byte) {v : View} (hc : v.command = some p.cmdMemwrite)
    (h : v.isOpen = false) : (v.dataByte p b).lost = true := by
  obtain ⟨w, hw, e⟩ := dataByte_of_command p b hc
  rw [e, if_pos rfl]
  obtain rfl | ⟨-, rfl⟩ := hw
  · exact pixelByte_lost_of_closed p b h
  · exact pixelByte_lost_of_closed p b (by rw [addressByte_isOpen, h])

/-- A data byte after a CMD_MEMWRITE that is no address command is a pixel's byte. -/
theorem dataByte_memwrite {p : Params} (b : Byte) {v : View} (hc : v.command = some p.cmdMemwrite)
    (hx : p.cmdMemwrite ≠ p.cmdColset) (hy : p.cmdMemwrite ≠ p.cmdRowset) : v.dataByte p b = v.pixelByte p b := by
  simp [View.dataByte, hc, hx, hy]

/-- Lost memory stays lost (20 R67, log 20). -/
theorem receive_lost_of_lost (p : Params) (kb : LineSel × Byte) {v : View} (h : v.lost = true) : (v.receive p kb).lost = true :=
  match kb with
  | (.cmd, c) => by rw [View.receive, commandByte_lost, h, Bool.true_or]
  | (.data, b) => dataByte_lost_of_lost p b h

theorem receiveAll_lost_of_lost (p : Params) (bytes : List (LineSel × Byte)) {v : View} (h : v.lost = true) :
    (bytes.foldl (View.receive p) v).lost = true := by
  induction bytes generalizing v with
  | nil => exact h
  | cons kb rest ih => exact ih (receive_lost_of_lost p kb h)

/-- A run's frame that no open window takes loses the memory before its first byte (42 R147). -/
theorem receiveFrame_lost_of_stray (p : Params) (sel : LineSel) (f : Frame) {v : View} (h : v.isOpen = false) :
    (v.receiveFrame p sel true f).lost = true :=
  receiveAll_lost_of_lost p _ (by simp [View.strayRun, h])

/-- Settles O59, clause by clause. -/
theorem frameMemoryIsLostOutsideTheWindow : Obligations.FrameMemoryIsLostOutsideTheWindow := by
  intro p v
  refine ⟨fun kb => receive_lost_of_lost p kb, fun x y h => if_pos (.inl h), fun b => dataByte_lost_of_closed p b,
    fun b hc hx hy hb => ?_, fun c h => ?_, fun b => dataByte_lost_of_no_command p b, fun c x y hx hy hm => ?_,
    fun c h => ?_, fun sel f => receiveFrame_lost_of_stray p sel f, fun sel f => receiveFrame_of_not_stray (strayRun_other v)⟩
  · rw [View.receive, dataByte_memwrite b hc hx hy]
    exact pixelByte_lost_of_bounds b hb
  · rw [View.receive, commandByte_lost, Option.isSome_iff_ne_none.2 h, Bool.or_true]
  · rw [View.receive, View.cell, commandByte_cells_other v hx hy hm, Mem.get?_nil, ite_self]
  · rw [View.receive, commandByte_isOpen, decide_eq_false h]

end Sys2Proof.Machine
end

section
/-! PROOFS. The controller view over a SETWIN and the pixels after it: the window's cells fill in raster order (20 R64 to R66; 41
R130; 42 R147). -/

namespace Sys2Proof.Machine

open Claims (setwinFrames)

/-! ### Frame by frame -/

/-- The view after the frames `fs`, the first of them at place `k` of the log. The configurations on the wire are not read. -/
def View.receiveFrames (s : State) : Nat → List Frame → View → View
  | _, [], v => v
  | k, f :: fs, v => View.receiveFrames s (k + 1) fs (v.receiveAt s (⟨f, s.busCfg⟩, k))

theorem receiveFrames_append (s : State) (k : Nat) (fs gs : List Frame) (v : View) :
    v.receiveFrames s k (fs ++ gs) = (v.receiveFrames s k fs).receiveFrames s (k + fs.length) gs := by
  induction fs generalizing k v with
  | nil => rfl
  | cons f fs ih =>
    rw [List.cons_append, View.receiveFrames, View.receiveFrames, ih, List.length_cons]
    congr 1
    omega

/-- The view is a function of the frames of the wire (20 R62). -/
theorem foldl_receiveAt (s : State) (k : Nat) (ws : List WireFrame) (v : View) :
    (ws.zipIdx k).foldl (View.receiveAt s) v = v.receiveFrames s k (ws.map WireFrame.frame) := by
  induction ws generalizing k v with
  | nil => rfl
  | cons f ws ih => exact ih (k + 1) _

theorem controllerView_eq (s : State) : controllerView s = View.start.receiveFrames s 0 (s.wire.map WireFrame.frame) :=
  foldl_receiveAt s 0 s.wire View.start

/-- The view of an earlier wire, its frames followed by more, goes on from there. -/
theorem controllerView_of_frames {s : State} {front : List WireFrame} {fs : List Frame}
    (h : s.wire.map WireFrame.frame = front.map WireFrame.frame ++ fs) :
    controllerView s = (controllerView { s with wire := front }).receiveFrames s front.length fs := by
  have hfront : controllerView { s with wire := front } = View.start.receiveFrames s 0 (front.map WireFrame.frame) :=
    foldl_receiveAt s 0 front View.start
  rw [controllerView_eq, h, receiveFrames_append, hfront, List.length_map, Nat.zero_add]

/-! ### A command frame and a frame of two data bytes -/

/-- The two bytes of a 16-bit frame, high byte first, as data (20 R55, R63). -/
def View.dataHalf (p : Params) (h : Half) (v : View) : View :=
  (v.dataByte p (h.extractLsb' 8 8)).dataByte p (h.extractLsb' 0 8)

/-- What the two bytes were sent of (20 R55, R64). -/
theorem joinBytes_bytes (h : Half) : joinBytes (h.extractLsb' 8 8) (h.extractLsb' 0 8) = h := by
  ext i hi
  simp only [joinBytes, BitVec.getElem_or, BitVec.getElem_shiftLeft, BitVec.getElem_setWidth, BitVec.getLsbD_extractLsb']
  by_cases h8 : i < 8
  · simp [h8, BitVec.getLsbD_eq_getElem hi]
  · simp [h8, show 8 + (i - 8) = i by omega, show i - 8 < 8 by omega, BitVec.getLsbD_eq_getElem hi]

section
variable {s : State} (hv : s.linesValid = true) (hd : s.tokCmd ≠ s.tokData)
include hv hd

/-- A byte frame with the command token that no run sent is a command. -/
theorem receiveAt_cmd (v : View) (c : Byte) (last : Bool) {k : Nat} (hk : s.fromRun.getD k false = false) :
    v.receiveAt s (⟨⟨s.tokCmd, .byte c, last⟩, s.busCfg⟩, k) = v.commandByte s.params c := by
  obtain ⟨hdel, hline⟩ := delivered_cmd (f := ⟨⟨s.tokCmd, .byte c, last⟩, s.busCfg⟩) hv hd rfl
  rw [View.receiveAt, if_pos hdel, hline, hk, receiveFrame_of_not_stray (strayRun_other v)]
  rfl

/-- A 16-bit frame with the data token that is no stray run's is two data bytes. -/
theorem receiveAt_data (v : View) (h : Half) (last : Bool) {k : Nat} (hk : v.strayRun (s.fromRun.getD k false) = false) :
    v.receiveAt s (⟨⟨s.tokData, .half h, last⟩, s.busCfg⟩, k) = v.dataHalf s.params h := by
  obtain ⟨hdel, hline⟩ := delivered_data (f := ⟨⟨s.tokData, .half h, last⟩, s.busCfg⟩) hv hd rfl
  rw [View.receiveAt, if_pos hdel, hline, receiveFrame_of_not_stray hk]
  rfl

/-- SETWIN's seven frames, where no run sent them (41 R130). -/
theorem receiveFrames_setwin (v : View) (x0 y0 x1 y1 : Half) {k : Nat}
    (hk : ∀ j, j < 7 → s.fromRun.getD (k + j) false = false) :
    v.receiveFrames s k (setwinFrames s x0 y0 x1 y1) =
      ((((((v.commandByte s.params s.params.cmdColset).dataHalf s.params x0).dataHalf s.params x1).commandByte s.params
        s.params.cmdRowset).dataHalf s.params y0).dataHalf s.params y1).commandByte s.params s.params.cmdMemwrite := by
  have notStray (j : Nat) (hj : j < 7) (w : View) : w.strayRun (s.fromRun.getD (k + j) false) = false := by
    rw [hk j hj, strayRun_other]
  simp only [setwinFrames, View.receiveFrames]
  rw [receiveAt_cmd hv hd (k := k) _ _ _ (hk 0 (by omega)), receiveAt_data hv hd _ _ _ (notStray 1 (by omega) _),
    receiveAt_data hv hd _ _ _ (notStray 2 (by omega) _), receiveAt_cmd hv hd _ _ _ (hk 3 (by omega)),
    receiveAt_data hv hd _ _ _ (notStray 4 (by omega) _), receiveAt_data hv hd _ _ _ (notStray 5 (by omega) _),
    receiveAt_cmd hv hd _ _ _ (hk 6 (by omega))]

end

/-! ### SETWIN opens the window -/

/-- The three command bytes are distinct (log 21). -/
structure CommandsDistinct (p : Params) : Prop where
  colset_rowset : p.cmdColset ≠ p.cmdRowset
  colset_memwrite : p.cmdColset ≠ p.cmdMemwrite
  rowset_memwrite : p.cmdRowset ≠ p.cmdMemwrite

section
variable {p : Params} (hp : CommandsDistinct p)
include hp

/-- Four parameter bytes after CMD_COLSET set the column registers (20 R64). -/
theorem colset_dataHalf (v : View) (a b : Half) :
    ((v.commandByte p p.cmdColset).dataHalf p a).dataHalf p b =
      { v with
        lost := v.lost || v.half.isSome, half := none, command := some p.cmdColset, isOpen := false,
        params := Payload.bytes (.half a) ++ Payload.bytes (.half b), xs := some a, xe := some b } := by
  obtain ⟨hxy, hxm, -⟩ := hp
  simp [View.commandByte, View.forgetNamed, View.dataHalf, View.dataByte, View.addressByte, Payload.bytes, joinBytes_bytes,
    hxy, hxm]

/-- Four parameter bytes after CMD_ROWSET set the row registers (20 R64). -/
theorem rowset_dataHalf (v : View) (a b : Half) :
    ((v.commandByte p p.cmdRowset).dataHalf p a).dataHalf p b =
      { v with
        lost := v.lost || v.half.isSome, half := none, command := some p.cmdRowset, isOpen := false,
        params := Payload.bytes (.half a) ++ Payload.bytes (.half b), ys := some a, ye := some b } := by
  obtain ⟨hxy, -, hym⟩ := hp
  simp [View.commandByte, View.forgetNamed, View.dataHalf, View.dataByte, View.addressByte, Payload.bytes, joinBytes_bytes,
    hxy.symm, hym]

/-- CMD_MEMWRITE opens the window at its first cell (20 R65). -/
theorem memwrite_commandByte (v : View) :
    v.commandByte p p.cmdMemwrite =
      { v with
        lost := v.lost || v.half.isSome, half := none, command := some p.cmdMemwrite, params := [], isOpen := true,
        cx := v.xs.map BitVec.toNat, cy := v.ys.map BitVec.toNat, n := 0 } := by
  obtain ⟨-, hxm, hym⟩ := hp
  simp [View.commandByte, View.forgetNamed, hxm.symm, hym.symm]

end

/-! ### The pixels of a window -/

/-- The window of a SETWIN's coordinates is ordered and inside the controller's frame memory (20 R66). -/
structure InFrame (p : Params) (x0 y0 x1 y1 : Half) : Prop where
  columns : x0.toNat ≤ x1.toNat
  lastColumn : x1.toNat < p.ctrlW
  rows : y0.toNat ≤ y1.toNat
  lastRow : y1.toNat < p.ctrlH

/-- The window's columns, counted. -/
def windowWidth (x0 x1 : Half) : Nat := x1.toNat - x0.toNat + 1

/-- The window's capacity in pixels (20 R66). -/
def windowCapacity (x0 y0 x1 y1 : Half) : Nat := windowWidth x0 x1 * (y1.toNat - y0.toNat + 1)

/-- The column of the j-th pixel in raster order. -/
def rasterX (x0 x1 : Half) (j : Nat) : Nat := x0.toNat + j % windowWidth x0 x1

/-- The row of the j-th pixel in raster order. -/
def rasterY (x0 y0 x1 : Half) (j : Nat) : Nat := y0.toNat + j / windowWidth x0 x1

/-- The cells with the pixels `px` in raster order written over `cells`. -/
def rasterCells (p : Params) (x0 y0 x1 : Half) (cells : Mem 16) (px : List Half) : Mem 16 :=
  px.zipIdx.foldl (fun m cj => m.put (rasterY x0 y0 x1 cj.2 * p.ctrlW + rasterX x0 x1 cj.2) cj.1) cells

/-- The view after a SETWIN and then the pixels `px`, the cells before it being `cells`. -/
def View.raster (p : Params) (x0 y0 x1 y1 : Half) (cells : Mem 16) (px : List Half) : View where
  xs := some x0
  xe := some x1
  ys := some y0
  ye := some y1
  command := some p.cmdMemwrite
  params := []
  isOpen := decide (px.length < windowCapacity x0 y0 x1 y1)
  cx := some (rasterX x0 x1 px.length)
  cy := some (rasterY x0 y0 x1 px.length)
  n := px.length
  half := none
  cells := rasterCells p x0 y0 x1 cells px
  lost := false

theorem windowWidth_pos (x0 x1 : Half) : 0 < windowWidth x0 x1 := Nat.succ_pos _

theorem windowCapacity_pos (x0 y0 x1 y1 : Half) : 0 < windowCapacity x0 y0 x1 y1 :=
  Nat.mul_pos (windowWidth_pos x0 x1) (Nat.succ_pos _)

theorem rasterCells_append (p : Params) (x0 y0 x1 : Half) (cells : Mem 16) (px : List Half) (c : Half) :
    rasterCells p x0 y0 x1 cells (px ++ [c]) =
      (rasterCells p x0 y0 x1 cells px).put
        (rasterY x0 y0 x1 px.length * p.ctrlW + rasterX x0 x1 px.length) c := by
  simp [rasterCells, List.zipIdx_append]

/-- The cursor moves on as the raster does: to the next column, or to the first column of the next row. -/
theorem raster_succ {x0 x1 : Half} (y0 : Half) (h : x0.toNat ≤ x1.toNat) (j : Nat) :
    rasterX x0 x1 (j + 1) = (if rasterX x0 x1 j < x1.toNat then rasterX x0 x1 j + 1 else x0.toNat) ∧
    rasterY x0 y0 x1 (j + 1) = if rasterX x0 x1 j < x1.toNat then rasterY x0 y0 x1 j else rasterY x0 y0 x1 j + 1 := by
  have hpos := windowWidth_pos x0 x1
  have hw : windowWidth x0 x1 = x1.toNat - x0.toNat + 1 := rfl
  have hlt := Nat.mod_lt j hpos
  have hj := Nat.mod_add_div j (windowWidth x0 x1)
  unfold rasterX rasterY
  by_cases hrow : x0.toNat + j % windowWidth x0 x1 < x1.toNat
  · obtain ⟨hdiv, hmod⟩ := (Nat.div_mod_unique hpos (a := j + 1) (c := j % windowWidth x0 x1 + 1)
      (d := j / windowWidth x0 x1)).2 ⟨by omega, by omega⟩
    rw [if_pos hrow, if_pos hrow, hdiv, hmod]
    exact ⟨rfl, rfl⟩
  · obtain ⟨hdiv, hmod⟩ := (Nat.div_mod_unique hpos (a := j + 1) (c := 0) (d := j / windowWidth x0 x1 + 1)).2
      ⟨by rw [Nat.mul_add_one]; omega, hpos⟩
    rw [if_neg hrow, if_neg hrow, hdiv, hmod]
    exact ⟨rfl, rfl⟩

/-- Two places of the raster are two cells. -/
theorem raster_injective {x0 y0 x1 : Half} {i j : Nat} (hx : rasterX x0 x1 i = rasterX x0 x1 j)
    (hy : rasterY x0 y0 x1 i = rasterY x0 y0 x1 j) : i = j := by
  rw [← Nat.mod_add_div i (windowWidth x0 x1), ← Nat.mod_add_div j (windowWidth x0 x1), Nat.add_left_cancel hx,
    Nat.add_left_cancel hy]

/-- Two cells of one frame memory have two keys. -/
theorem cellKey_injective {width x y x' y' : Nat} (hx : x < width) (hx' : x' < width)
    (h : y * width + x = y' * width + x') : x = x' ∧ y = y' := by
  have hxx : x = x' := by
    have hmod := congrArg (· % width) h
    simpa [Nat.mul_add_mod', Nat.mod_eq_of_lt hx, Nat.mod_eq_of_lt hx'] using hmod
  exact ⟨hxx, Nat.eq_of_mul_eq_mul_right (by omega) (by omega : y * width = y' * width)⟩

section
variable {p : Params} {x0 y0 x1 y1 : Half} (hf : InFrame p x0 y0 x1 y1)
include hf

theorem rasterX_lt (j : Nat) : rasterX x0 x1 j < p.ctrlW := by
  have hlt := Nat.mod_lt j (windowWidth_pos x0 x1)
  have hcol := hf.columns
  have hlast := hf.lastColumn
  unfold rasterX
  unfold windowWidth at hlt ⊢
  omega

theorem rasterY_lt {j : Nat} (h : j < windowCapacity x0 y0 x1 y1) : rasterY x0 y0 x1 j < p.ctrlH := by
  have hlt := Nat.div_lt_of_lt_mul h
  have hrows := hf.rows
  have hlast := hf.lastRow
  unfold rasterY
  omega

/-- A cell none of the pixels is in keeps its value. -/
theorem get?_rasterCells_other (cells : Mem 16) (px : List Half) {x y : Nat} (hx : x < p.ctrlW)
    (h : ∀ j, j < px.length → ¬(x = rasterX x0 x1 j ∧ y = rasterY x0 y0 x1 j)) :
    (rasterCells p x0 y0 x1 cells px).get? (y * p.ctrlW + x) = Mem.get? cells (y * p.ctrlW + x) := by
  induction px using List.reverseRecOn with
  | nil => rfl
  | append_singleton px c ih =>
    rw [List.length_append, List.length_singleton] at h
    rw [rasterCells_append, Mem.get?_put_other, ih fun j hj => h j (by omega)]
    exact fun hkey => h px.length (by omega) (cellKey_injective hx (rasterX_lt hf _) hkey)

/-- The j-th pixel is in the raster's j-th cell. -/
theorem get?_rasterCells (cells : Mem 16) {px : List Half} {j : Nat} {c : Half} (h : px[j]? = some c) :
    (rasterCells p x0 y0 x1 cells px).get? (rasterY x0 y0 x1 j * p.ctrlW + rasterX x0 x1 j) = some c := by
  induction px using List.reverseRecOn with
  | nil => simp at h
  | append_singleton px d ih =>
    rw [rasterCells_append]
    rcases Nat.lt_trichotomy j px.length with hj | rfl | hj
    · rw [Mem.get?_put_other, ih (by rwa [List.getElem?_append_left hj] at h)]
      intro hkey
      obtain ⟨hx, hy⟩ := cellKey_injective (rasterX_lt hf _) (rasterX_lt hf _) hkey
      exact absurd (raster_injective hx hy) (by omega)
    · rw [Mem.get?_put_same]
      simpa using h
    · rw [List.getElem?_eq_none (by simpa using hj)] at h
      cases h

theorem bounds_raster (cells : Mem 16) (px : List Half) :
    (View.raster p x0 y0 x1 y1 cells px).bounds p = some (x0.toNat, x1.toNat, y0.toNat, y1.toNat) :=
  if_pos ⟨hf.columns, hf.lastColumn, hf.rows, hf.lastRow⟩

end

/-- The view takes pixels: an open window with bounds (xs, xe, ys, ye), the cursor at (cx, cy) (20 R66). -/
structure View.Takes (p : Params) (v : View) (xs xe ys ye cx cy : Nat) : Prop where
  command : v.command = some p.cmdMemwrite
  isOpen : v.isOpen = true
  bounds : v.bounds p = some (xs, xe, ys, ye)
  cx : v.cx = some cx
  cy : v.cy = some cy

section
variable {p : Params} (hp : CommandsDistinct p) {v : View} {xs xe ys ye cx cy : Nat} (h : v.Takes p xs xe ys ye cx cy)
include hp h

/-- A pixel's first byte waits for the second. -/
theorem dataByte_pixel_first (b : Byte) (hh : v.half = none) : v.dataByte p b = { v with half := some b } := by
  obtain ⟨hc, ho, hb, hx, hy⟩ := h
  rw [dataByte_memwrite b hc hp.colset_memwrite.symm hp.rowset_memwrite.symm]
  simp only [View.pixelByte, ho, hb, hx, hy, hh]

/-- A pixel's second byte writes the pixel. -/
theorem dataByte_pixel_second {high : Byte} (b : Byte) (hh : v.half = some high) :
    v.dataByte p b = v.writePixel p xs xe ys ye cx cy (joinBytes high b) := by
  obtain ⟨hc, ho, hb, hx, hy⟩ := h
  rw [dataByte_memwrite b hc hp.colset_memwrite.symm hp.rowset_memwrite.symm]
  simp only [View.pixelByte, ho, hb, hx, hy, hh]

/-- The two bytes of a pixel write it at the cursor. -/
theorem dataHalf_pixel (c : Half) (hh : v.half = none) : v.dataHalf p c = v.writePixel p xs xe ys ye cx cy c := by
  have hnext : View.Takes p { v with half := some (c.extractLsb' 8 8) } xs xe ys ye cx cy :=
    ⟨h.command, h.isOpen, h.bounds, h.cx, h.cy⟩
  rw [View.dataHalf, dataByte_pixel_first hp h _ hh, dataByte_pixel_second hp hnext _ rfl, joinBytes_bytes]
  rfl

end

/-- One pixel more, where the window has room for it. -/
theorem dataHalf_raster {p : Params} (hp : CommandsDistinct p) {x0 y0 x1 y1 : Half} (hf : InFrame p x0 y0 x1 y1)
    (cells : Mem 16) {px : List Half} (c : Half) (h : px.length < windowCapacity x0 y0 x1 y1) :
    (View.raster p x0 y0 x1 y1 cells px).dataHalf p c = View.raster p x0 y0 x1 y1 cells (px ++ [c]) := by
  rw [dataHalf_pixel hp ⟨rfl, decide_eq_true h, bounds_raster hf cells px, rfl, rfl⟩ c rfl]
  obtain ⟨hx, hy⟩ := raster_succ y0 hf.columns px.length
  have hopen : decide (px.length + 1 ≠ windowCapacity x0 y0 x1 y1) = decide (px.length + 1 < windowCapacity x0 y0 x1 y1) :=
    decide_eq_decide.2 ⟨fun _ => by omega, fun _ => by omega⟩
  unfold View.raster View.writePixel
  rw [rasterCells_append, List.length_append, List.length_singleton, hx, hy, ← hopen]
  rfl

section
variable {s : State} (hv : s.linesValid = true) (hd : s.tokCmd ≠ s.tokData) (hp : CommandsDistinct s.params)
  {x0 y0 x1 y1 : Half}
include hv hd hp

/-- SETWIN's frames give the view of no pixel yet, the cells as they were (41 R130, 20 R65). -/
theorem receiveFrames_setwin_raster {v : View} (hl : v.lost = false) (hh : v.half = none) {k : Nat}
    (hk : ∀ j, j < 7 → s.fromRun.getD (k + j) false = false) :
    v.receiveFrames s k (setwinFrames s x0 y0 x1 y1) = View.raster s.params x0 y0 x1 y1 v.cells [] := by
  rw [receiveFrames_setwin hv hd v x0 y0 x1 y1 hk, colset_dataHalf hp, rowset_dataHalf hp, memwrite_commandByte hp, hl, hh]
  simp [View.raster, rasterX, rasterY, rasterCells, windowCapacity_pos]

/-- Pixel frames that the window has room for, a run's or not, are the raster's next pixels. -/
theorem receiveFrames_raster (hf : InFrame s.params x0 y0 x1 y1) (cells : Mem 16) (run : List (Half × Bool))
    (px : List Half) (k : Nat) (h : px.length + run.length ≤ windowCapacity x0 y0 x1 y1) :
    (View.raster s.params x0 y0 x1 y1 cells px).receiveFrames s k (run.map fun c => ⟨s.tokData, .half c.1, c.2⟩) =
      View.raster s.params x0 y0 x1 y1 cells (px ++ run.map Prod.fst) := by
  induction run generalizing px k with
  | nil => simp [View.receiveFrames]
  | cons c run ih =>
    rw [List.length_cons] at h
    have room : px.length < windowCapacity x0 y0 x1 y1 := by omega
    rw [List.map_cons, View.receiveFrames, receiveAt_data hv hd _ _ _ (strayRun_open (decide_eq_true room)),
      dataHalf_raster hp hf cells c.1 room, ih _ _ (by rw [List.length_append, List.length_singleton]; omega)]
    simp

end

/-- A cell inside the frame memory, where the view has lost nothing and no half pixel is left. -/
theorem cell_of_known {p : Params} {v : View} {x y : Nat} (hl : v.lost = false) (hh : v.half = none) (hx : x < p.ctrlW)
    (hy : y < p.ctrlH) : v.cell p x y = Mem.get? v.cells (y * p.ctrlW + x) := by
  refine if_neg ?_
  simp [hl, hh, hx, hy]

theorem cell_outside {p : Params} {x y : Nat} (v : View) (h : p.ctrlW ≤ x ∨ p.ctrlH ≤ y) : v.cell p x y = none :=
  if_pos (.inr (.inr h))

/-- Settles O58: the view is `View.raster` of the run's pixels over the cells it had before the SETWIN. -/
theorem pixelsFillTheWindowInRasterOrder : Obligations.PixelsFillTheWindowInRasterOrder := by
  intro s front x0 y0 x1 y1 run hv hd hxy hxm hym hx hx1 hy hy1 hk hl hh hlen hwire
  have hp : CommandsDistinct s.params := ⟨hxy, hxm, hym⟩
  have hf : InFrame s.params x0 y0 x1 y1 := ⟨hx, hx1, hy, hy1⟩
  have hfits : run.length ≤ windowCapacity x0 y0 x1 y1 := hlen
  rw [List.append_assoc] at hwire
  have hview : controllerView s = View.raster s.params x0 y0 x1 y1 (controllerView { s with wire := front }).cells
      (run.map Prod.fst) := by
    rw [controllerView_of_frames hwire, receiveFrames_append, receiveFrames_setwin_raster hv hd hp hl hh hk,
      receiveFrames_raster hv hd hp hf _ run [] _ (by simpa using hfits), List.nil_append]
  rw [hview]
  refine ⟨fun j c hc => ?_, fun x y hother => ?_, ?_⟩
  · have hj : j < windowCapacity x0 y0 x1 y1 := Nat.lt_of_lt_of_le (List.getElem?_eq_some_iff.1 hc).1 hfits
    exact (cell_of_known rfl rfl (rasterX_lt hf j) (rasterY_lt hf hj)).trans (get?_rasterCells hf _ (by simp [hc]))
  · by_cases hin : x < s.params.ctrlW ∧ y < s.params.ctrlH
    · obtain ⟨hxin, hyin⟩ := hin
      rw [cell_of_known rfl rfl hxin hyin, cell_of_known hl hh hxin hyin]
      exact get?_rasterCells_other hf _ _ hxin fun j hj => hother j (by simpa using hj)
    · rw [cell_outside _ (by omega), cell_outside _ (by omega)]
  · simp [View.raster, windowCapacity, windowWidth]

end Sys2Proof.Machine
end

section
/-! PROOFS. The encoder and the decoder (30 R80 to R89). The bits an operation leaves free in its header are the fields it has
operands in, so a header with no reserved bit set is the header word of those fields. -/

namespace Sys2Proof

theorem Op.words_pos (op : Op) : 0 < op.words := by cases op <;> decide

theorem Op.words_le (op : Op) : op.words ≤ 3 := by cases op <;> decide

/-! ### The fields of a header that an operation has operands in -/

/-- The bits of IMM16 that hold an operand (30 R80, R87). -/
def Op.immUsed : Op → Half
  | .sendb => 0x00FF
  | .sendw | .fill => 0xFFFF
  | .setwin | .blit | .sessbeg | .sessend | .initln | .halt => 0

/-- FRM holds an operand (30 R80, R88). -/
def Op.frmUsed : Op → BitVec 1
  | .sendb | .sendw => 1
  | .setwin | .fill | .blit | .sessbeg | .sessend | .initln | .halt => 0

/-- SEL / VALID holds an operand (30 R80, R88). -/
def Op.selUsed : Op → BitVec 1
  | .sendb | .sendw | .initln => 1
  | .setwin | .fill | .blit | .sessbeg | .sessend | .halt => 0

/-- The reserved bits are those of no operand field and not of OP (30 R85). -/
theorem Op.reserved_eq (op : Op) :
    op.reserved = ~~~(place 16 op.immUsed ||| place 5 op.frmUsed ||| place 4 op.selUsed ||| place 0 (0xF : BitVec 4)) := by
  cases op <;> rfl

/-- A word masked by a placed field is that field of it, masked and placed. -/
theorem and_place {n : Nat} (w : Word) (lo : Nat) (m : BitVec n) : w &&& place lo m = place lo (w.extractLsb' lo n &&& m) := by
  ext i hi
  rw [← BitVec.getLsbD_eq_getElem, ← BitVec.getLsbD_eq_getElem, BitVec.getLsbD_and, getLsbD_place lo m i hi,
    getLsbD_place lo _ i hi, BitVec.getLsbD_and, BitVec.getLsbD_extractLsb']
  by_cases h : lo ≤ i
  · by_cases hn : i - lo < n
    · simp [h, hn]
    · simp [h, hn, BitVec.getLsbD_of_ge m (i - lo) (by omega)]
  · simp [h]

theorem and_not_eq_zero_iff {n : Nat} (w m : BitVec n) : w &&& ~~~m = 0 ↔ w = w &&& m := by
  constructor
  · intro h
    calc w = w &&& (~~~m ||| m) := by simp
      _ = w &&& m := by rw [BitVec.and_or_distrib_left, h]; simp
  · intro h
    rw [h, BitVec.and_assoc]
    simp

/-- A header of OP `op` has no reserved bit set exactly when it is the header word of its operand fields (30 R85). -/
theorem reserved_clear_iff {w0 : Word} {op : Op} (ho : opField w0 = op.field) :
    w0 &&& op.reserved = 0 ↔
      w0 = headerWord (highHalf w0 &&& op.immUsed) (w0.extractLsb' 5 1 &&& op.frmUsed) (w0.extractLsb' 4 1 &&& op.selUsed) op := by
  have hop : w0.extractLsb' 0 4 &&& 0xF = op.field := by
    rw [← ho]
    exact BitVec.and_allOnes
  rw [Op.reserved_eq, and_not_eq_zero_iff, BitVec.and_or_distrib_left, BitVec.and_or_distrib_left, BitVec.and_or_distrib_left,
    and_place, and_place, and_place, and_place, hop]
  rfl

/-- The header word of an operation's own operands has no reserved bit set. -/
theorem reserved_headerWord_eq_zero {imm : Half} {f s : BitVec 1} {op : Op} (hi : imm &&& op.immUsed = imm)
    (hf : f &&& op.frmUsed = f) (hs : s &&& op.selUsed = s) : headerWord imm f s op &&& op.reserved = 0 := by
  have frm : (headerWord imm f s op).extractLsb' 5 1 = f := by
    ext i hi
    simpa [show i = 0 by omega] using frm_headerWord imm f s op
  have sel : (headerWord imm f s op).extractLsb' 4 1 = s := by
    ext i hi
    simpa [show i = 0 by omega] using sel_headerWord imm f s op
  rw [reserved_clear_iff (opField_headerWord imm f s op), highHalf_headerWord, frm, sel, hi, hf, hs]

/-! ### Decoding an encoded operation -/

/-- The decoder reads the header word of an operation's operands, with its extra words there, as the operands say. -/
theorem decode_headerWord {imm : Half} {f s : BitVec 1} {op : Op} (hi : imm &&& op.immUsed = imm) (hf : f &&& op.frmUsed = f)
    (hs : s &&& op.selUsed = s) (extra rest : List Word) (hl : extra.length + 1 = op.words) :
    decode (headerWord imm f s op :: extra ++ rest) =
      .ok (operands op (headerWord imm f s op) ((extra ++ rest).getD 0 0) ((extra ++ rest).getD 1 0)) rest := by
  have ho : Op.ofField (opField (headerWord imm f s op)) = some op := by rw [opField_headerWord, Op.ofField_field]
  have hlen : op.words ≤ (extra ++ rest).length + 1 := by rw [List.length_append]; omega
  rw [List.cons_append, decode_legal _ _ op ho hlen (reserved_headerWord_eq_zero hi hf hs),
    List.drop_append_of_le_length (by omega), List.drop_eq_nil_of_le (by omega), List.nil_append]

theorem selField_headerWord (imm : Half) (f : BitVec 1) (sel : LineSel) (op : Op) :
    selField (headerWord imm f (selBit sel) op) = sel := by
  rw [selField, sel_headerWord]
  cases sel <;> rfl

theorem frmField_headerWord (imm : Half) (frm : Framing) (s : BitVec 1) (op : Op) :
    frmField (headerWord imm (frmBit frm) s op) = frm := by
  rw [frmField, frm_headerWord]
  cases frm <;> rfl

/-- The low byte of a 16-bit value, zero-extended: the operand field of SENDB's IMM16 (30 R80, R87). -/
theorem and_immUsed_sendb (h : Half) : h &&& Op.sendb.immUsed = (h.setWidth 8).setWidth 16 := by
  have hm : Op.sendb.immUsed = (BitVec.allOnes 8).setWidth 16 := rfl
  rw [hm]
  ext i hi
  simp only [BitVec.getElem_and, BitVec.getElem_setWidth, BitVec.getLsbD_allOnes, BitVec.getLsbD_setWidth,
    BitVec.getLsbD_eq_getElem hi, Bool.and_comm]

/-- SENDB's byte is the low byte of IMM16 (30 R87). -/
theorem byte_eq_setWidth_highHalf (w0 : Word) : w0.extractLsb' 16 8 = (highHalf w0).setWidth 8 :=
  (BitVec.setWidth_extractLsb'_of_le (by decide)).symm

/-- Settles O1: for each operation its header is a legal one and its fields read back as the operands. -/
theorem decodeOfEncodeIsTheInstruction : Obligations.DecodeOfEncodeIsTheInstruction := by
  intro i rest
  cases i with
  | sendb sel frm value =>
    have hbyte : (value.setWidth 16).setWidth 8 = value := by simp
    have himm : value.setWidth 16 &&& Op.sendb.immUsed = value.setWidth 16 := by rw [and_immUsed_sendb, hbyte]
    refine (decode_headerWord himm BitVec.and_allOnes BitVec.and_allOnes [] rest rfl).trans ?_
    rw [operands, selField_headerWord, frmField_headerWord, byte_eq_setWidth_highHalf, highHalf_headerWord, hbyte]
  | sendw sel frm value =>
    refine (decode_headerWord (op := .sendw) BitVec.and_allOnes BitVec.and_allOnes BitVec.and_allOnes [] rest rfl).trans ?_
    rw [operands, selField_headerWord, frmField_headerWord, highHalf_headerWord]
  | setwin x0 y0 x1 y1 =>
    refine (decode_headerWord (op := .setwin) rfl rfl rfl [halvesWord x1 x0, halvesWord y1 y0] rest rfl).trans ?_
    simp [operands, lowHalf_halvesWord, highHalf_halvesWord]
  | fill color count =>
    refine (decode_headerWord (op := .fill) BitVec.and_allOnes rfl rfl [count] rest rfl).trans ?_
    rw [operands, highHalf_headerWord]
    rfl
  | blit base count => exact decode_headerWord (op := .blit) rfl rfl rfl [count, base] rest rfl
  | sessbeg => exact decode_headerWord (op := .sessbeg) rfl rfl rfl [] rest rfl
  | sessend => exact decode_headerWord (op := .sessend) rfl rfl rfl [] rest rfl
  | initln valid tc td =>
    refine (decode_headerWord (op := .initln) rfl rfl BitVec.and_allOnes [halvesWord td tc] rest rfl).trans ?_
    rw [operands, sel_headerWord]
    simp [lowHalf_halvesWord, highHalf_halvesWord]
  | halt => exact decode_headerWord (op := .halt) rfl rfl rfl [] rest rfl

/-! ### Encoding a decoded operation -/

theorem extractLsb'_one (w : Word) (n : Nat) : w.extractLsb' n 1 = BitVec.ofBool (w.getLsbD n) := by
  ext i hi
  simp [show i = 0 by omega]

theorem selBit_selField (w0 : Word) : selBit (selField w0) = w0.extractLsb' 4 1 := by
  rw [extractLsb'_one, selField]
  cases w0.getLsbD 4 <;> rfl

theorem frmBit_frmField (w0 : Word) : frmBit (frmField w0) = w0.extractLsb' 5 1 := by
  rw [extractLsb'_one, frmField]
  cases w0.getLsbD 5 <;> rfl

/-- An operation's words are the header of its operand fields, then as many extra words as its length says. -/
theorem encode_operands (op : Op) (w0 w1 w2 : Word) :
    encode (operands op w0 w1 w2) =
      headerWord (highHalf w0 &&& op.immUsed) (w0.extractLsb' 5 1 &&& op.frmUsed) (w0.extractLsb' 4 1 &&& op.selUsed) op ::
        [w1, w2].take (op.words - 1) := by
  have all : ∀ h : Half, h &&& 0xFFFF = h := fun _ => BitVec.and_allOnes
  have bit : ∀ b : BitVec 1, b &&& 1 = b := fun _ => BitVec.and_allOnes
  cases op with
  | sendb =>
    rw [operands, encode, selBit_selField, frmBit_frmField, byte_eq_setWidth_highHalf, and_immUsed_sendb, Op.frmUsed, Op.selUsed,
      bit, bit]
    rfl
  | sendw =>
    rw [operands, encode, selBit_selField, frmBit_frmField, Op.immUsed, Op.frmUsed, Op.selUsed, all, bit, bit]
    rfl
  | fill =>
    rw [operands, encode, Op.immUsed, Op.frmUsed, Op.selUsed, all]
    simp [Op.words]
  | initln =>
    rw [operands, encode, halvesWord_halves, Op.immUsed, Op.frmUsed, Op.selUsed, bit, ← extractLsb'_one]
    simp [Op.words]
  | setwin =>
    rw [operands, encode, halvesWord_halves, halvesWord_halves]
    simp [Op.words, Op.immUsed, Op.frmUsed, Op.selUsed]
  | blit | sessbeg | sessend | halt => simp [operands, encode, Op.words, Op.immUsed, Op.frmUsed, Op.selUsed]

/-- The extra words the operands use, then the rest, are all the words after the header. -/
theorem take_append_drop_of_length {op : Op} {tail : List Word} (h : op.words ≤ tail.length + 1) :
    [tail.getD 0 0, tail.getD 1 0].take (op.words - 1) ++ tail.drop (op.words - 1) = tail := by
  have htake : [tail.getD 0 0, tail.getD 1 0].take (op.words - 1) = tail.take (op.words - 1) := by
    have hmax : op.words - 1 ≤ 2 := Nat.sub_le_of_le_add op.words_le
    rcases tail with _ | ⟨w1, _ | ⟨w2, tail⟩⟩
    · exact List.take_append_of_le_length (l₁ := []) (Nat.sub_le_of_le_add h)
    · exact List.take_append_of_le_length (l₁ := [w1]) (Nat.sub_le_of_le_add h)
    · exact (List.take_append_of_le_length (l₁ := [w1, w2]) hmax).symm
  rw [htake, List.take_append_drop]

/-- Settles O2: a legal header is the header word of its operand fields, and the extra words have no reserved bits. -/
theorem encodeOfDecodeIsTheWords : Obligations.EncodeOfDecodeIsTheWords := by
  intro ws i rest h
  obtain ⟨w0, tail, op, rfl, ho, hl, hr, rfl, rfl⟩ := decode_ok h
  have hw0 := (reserved_clear_iff (Op.field_of_ofField _ _ ho).symm).1 hr
  rw [encode_operands, ← hw0, List.cons_append, take_append_drop_of_length hl]

/-! ### The tables -/

/-- The nine operations, in the order of the tables (30 R81). -/
def Op.all : List Op := [.sendb, .sendw, .setwin, .fill, .blit, .sessbeg, .sessend, .initln, .halt]

theorem Op.mem_all (op : Op) : op ∈ Op.all := by cases op <;> decide

/-- The rows of the opcode table are those of the nine operations (30 R82, R85). -/
theorem opcodeTable_eq : opcodeTable.map (fun r => (r.matchBits, r.mask, r.words)) =
    Op.all.map fun op => (op.field.setWidth 32, op.reserved ||| 0xF, op.words) := rfl

/-- The rows (OP, RMASK, length) are those of the nine operations (30 R81, R82, R85). -/
theorem mem_headers {c : BitVec 4} {m : Word} {n : Nat} (h : (c, m, n) ∈ Claims.headers) :
    ∃ op : Op, c = op.field ∧ m = op.reserved ∧ n = op.words := by
  have heq : Claims.headers = Op.all.map fun op => (op.field, op.reserved, op.words) := rfl
  rw [heq, List.mem_map] at h
  obtain ⟨op, -, h⟩ := h
  injection h with hc h
  injection h with hm hn
  exact ⟨op, hc.symm, hm.symm, hn.symm⟩

/-- The match and mask pair asks for the OP value and for no reserved bit (30 R85). -/
theorem matches_iff (w0 : Word) (op : Op) :
    w0 &&& (op.reserved ||| 0xF) = op.field.setWidth 32 ↔ opField w0 = op.field ∧ w0 &&& op.reserved = 0 := by
  have low : w0 &&& 0xF = (opField w0).setWidth 32 := by
    calc w0 &&& place 0 (0xF : BitVec 4) = place 0 (opField w0 &&& BitVec.allOnes 4) := and_place w0 0 _
      _ = (opField w0).setWidth 32 := by rw [BitVec.and_allOnes, place, BitVec.shiftLeft_zero]
  constructor
  · intro h
    have hop : opField (w0 &&& (op.reserved ||| 0xF)) = opField w0 := by
      have hall : (op.reserved ||| 0xF).extractLsb' 0 4 = BitVec.allOnes 4 := by cases op <;> rfl
      rw [opField, BitVec.extractLsb'_and, hall, BitVec.and_allOnes, opField]
    have hr : op.field.setWidth 32 &&& op.reserved = 0 := by cases op <;> rfl
    have habs : (op.reserved ||| 0xF) &&& op.reserved = op.reserved := by cases op <;> rfl
    refine ⟨?_, ?_⟩
    · rw [← hop, h]
      cases op <;> rfl
    · rw [← hr, ← h, BitVec.and_assoc, habs]
  · rintro ⟨ho, hr⟩
    rw [BitVec.and_or_distrib_left, hr, low, ho]
    exact BitVec.zero_or

/-- A list is a legal descriptor by the table exactly when its header has an operation's OP, no reserved bit of it, and the list is
as long as the operation says (30 R82, R85). -/
theorem wellFormedDescriptor_cons (w0 : Word) (tail : List Word) :
    wellFormedDescriptor (w0 :: tail) = true ↔
      ∃ op : Op, opField w0 = op.field ∧ w0 &&& op.reserved = 0 ∧ tail.length + 1 = op.words := by
  have hmap : wellFormedDescriptor (w0 :: tail) =
      (opcodeTable.map fun r => (r.matchBits, r.mask, r.words)).any
        fun r => w0 &&& r.2.1 == r.1 && decide (tail.length + 1 = r.2.2) := by
    rw [List.any_map]
    rfl
  simp only [hmap, opcodeTable_eq, List.any_map, List.any_eq_true, Function.comp_apply, Bool.and_eq_true, beq_iff_eq,
    decide_eq_true_eq, matches_iff, and_assoc, Op.mem_all, true_and]

/-- Settles O3: both sides ask for the OP of an operation, no reserved bit of it, and as many words as it has. -/
theorem decodeAcceptsExactlyTheTable : Obligations.DecodeAcceptsExactlyTheTable := by
  intro ws
  cases ws with
  | nil => simp [wellFormedDescriptor, decode]
  | cons w0 tail =>
    rw [wellFormedDescriptor_cons]
    constructor
    · rintro ⟨op, ho, hr, hl⟩
      rw [decode_legal w0 tail op (by rw [ho, Op.ofField_field]) hl.ge hr, List.drop_eq_nil_of_le (by omega)]
      exact ⟨_, rfl⟩
    · rintro ⟨i, h⟩
      obtain ⟨_, _, op, heq, ho, hl, hr, -, hrest⟩ := decode_ok h
      injection heq with h0 htail
      subst h0 htail
      have hlen : tail.length ≤ op.words - 1 := List.drop_eq_nil_iff.1 hrest.symm
      have hpos := op.words_pos
      exact ⟨op, (Op.field_of_ofField _ _ ho).symm, hr, by omega⟩

/-- Settles O4, by running the decoder on the nine descriptors. -/
theorem specEncodingsDecode : Obligations.SpecEncodingsDecode := by
  unfold Obligations.SpecEncodingsDecode
  decide

end Sys2Proof
end

section
/-! PROOFS. The DECODE step (30 R84): what the sequencer fetches, what it decodes to, and the fault or the operation that follows
(30 R85, R86; 60 R201, R202). -/

namespace Sys2Proof

/-! ### The reasons a list of words is rejected -/

theorem decode_illegal {w0 : Word} (tail : List Word) (h : Op.ofField (opField w0) = none) :
    decode (w0 :: tail) = .error .illegalOp := by
  simp [decode, h]

theorem decode_truncated {w0 : Word} {tail : List Word} {op : Op} (h : opField w0 = op.field)
    (hl : tail.length + 1 < op.words) : decode (w0 :: tail) = .error .truncated := by
  simp [decode, h, Op.ofField_field, hl]

theorem decode_reserved {w0 : Word} {tail : List Word} {op : Op} (h : opField w0 = op.field)
    (hl : op.words ≤ tail.length + 1) (hr : w0 &&& op.reserved ≠ 0) : decode (w0 :: tail) = .error .reservedField := by
  simp only [decode, h, Op.ofField_field]
  rw [if_neg (by omega), if_pos hr]

end Sys2Proof

namespace Sys2Proof.Machine

open Claims (between goesTo)

/-! ### What is fetched -/

@[simp] theorem fetchWords_useMove (s : State) : fetchWords (useMove s) = fetchWords s := by
  obtain ⟨ms, d, h⟩ := useMove_eq s
  rw [h]
  rfl

/-- With `dp` at or past the end of DMEM nothing is fetched. -/
theorem fetchWords_past {s : State} (h : s.params.dmemWords ≤ s.dp) : fetchWords s = [] := by
  simp [fetchWords, readDmem, show ¬ s.dp < s.params.dmemWords by omega, show ¬ s.dp + 1 < s.params.dmemWords by omega,
    show ¬ s.dp + 2 < s.params.dmemWords by omega]

/-- With `dp` inside DMEM the header is fetched, and of the two words after it those that DMEM has. -/
theorem fetchWords_inside {s : State} (h : s.dp < s.params.dmemWords) :
    ∃ tail, fetchWords s = s.dmem.read s.dp :: tail ∧ tail.length + 1 = min 3 (s.params.dmemWords - s.dp) := by
  refine ⟨[s.dp + 1, s.dp + 2].filterMap (readDmem s), by simp [fetchWords, readDmem, h], ?_⟩
  by_cases h1 : s.dp + 1 < s.params.dmemWords
  · by_cases h2 : s.dp + 2 < s.params.dmemWords
    · simp [readDmem, h1, h2]
      omega
    · simp [readDmem, h1, h2]
      omega
  · simp [readDmem, h1, show ¬ s.dp + 2 < s.params.dmemWords by omega]
    omega

/-! ### The step at a DECODE -/

section
variable {s : State} (hm : nextMove s = some .sequencer) (hb : between s)
include hm hb

/-- Where the words decode, the step is `exec` of the operation. -/
theorem step_of_decode_ok {i : Instr} {rest : List Word} (hd : decode (fetchWords s) = .ok i rest) :
    step s = exec i (useMove s) := by
  simp [step_sequencer hm, sequencerStep, hb, hd]

/-- Where they do not, it raises the fault of the reason. -/
theorem step_of_decode_error {e : DecodeError} (hd : decode (fetchWords s) = .error e) :
    step s = .next ((useMove s).raise (decodeFault e)) := by
  simp [step_sequencer hm, sequencerStep, hb, hd]

end

/-- Settles O8: the next move is the sequencer's, and moving the schedule on touches nothing it fetches. -/
theorem stepRunsTheDecodedInstruction : Obligations.StepRunsTheDecodedInstruction := by
  intro s i rest hm hb hd
  exact ⟨step_of_decode_ok hm hb hd, useMove_eq s⟩

/-- Settles O6: a header inside DMEM is fetched, and none of these OP values is an operation's. -/
theorem illegalOpFaults : Obligations.IllegalOpFaults := by
  intro s hm hb hdp hop
  have hnone : ∀ c : BitVec 4, c ∈ [0x0#4, 0x9#4, 0xA#4, 0xB#4, 0xC#4, 0xD#4, 0xE#4] → Op.ofField c = none := by decide
  obtain ⟨tail, hf, -⟩ := fetchWords_inside hdp
  exact step_of_decode_error hm hb (hf ▸ decode_illegal tail (hnone _ hop))

/-- Settles O5: the descriptor is fetched whole, so the decoder comes to the reserved bits; and the match and mask pair asks for the
OP value and for none of them. -/
theorem reservedHeaderBitsFault : Obligations.ReservedHeaderBitsFault := by
  intro c mask len h
  obtain ⟨op, rfl, rfl, rfl⟩ := mem_headers h
  refine ⟨fun s hm hb hfits hop hr => ?_, fun w0 hop => ?_⟩
  · obtain ⟨tail, hf, hlen⟩ := fetchWords_inside (s := s) (by have := op.words_pos; omega)
    have hl : op.words ≤ tail.length + 1 := by have := op.words_le; omega
    exact step_of_decode_error hm hb (hf ▸ decode_reserved hop hl hr)
  · rw [matches_iff]
    exact (and_iff_right hop).symm

/-- Settles O7: too few words are fetched, none or fewer than the operation has. -/
theorem fetchPastTheEndFaults : Obligations.FetchPastTheEndFaults := by
  intro s hm hb
  refine ⟨fun hpast => ?_, fun c mask len h hdp hpast hop => ?_⟩
  · exact step_of_decode_error (e := .truncated) hm hb (by rw [fetchWords_past hpast, decode])
  · obtain ⟨op, rfl, rfl, rfl⟩ := mem_headers h
    obtain ⟨tail, hf, hlen⟩ := fetchWords_inside hdp
    exact step_of_decode_error hm hb (hf ▸ decode_truncated hop (by omega))

/-! ### The operation begins -/

/-- Where its static check passes, an operation is in progress after its DECODE. -/
theorem exec_begins {i : Instr} {s : State} (hb : between s) (hc : staticCheck i s = none) : exec i s = .next (goesTo i 0 s) := by
  obtain ⟨hrun, hcur⟩ := hb
  rw [exec_decode i s hrun hcur, hc]
  rfl

/-- Settles O13: the premises of each operation are that its static check passes. -/
theorem operationsBegin : Obligations.OperationsBegin := by
  intro s hb
  refine ⟨?_, ?_, ?_, ?_, ?_, ?_, ?_, ?_, ?_⟩
  · exact fun _ _ _ ho => exec_begins hb ((checkSession_eq_none s).2 ho)
  · exact fun _ _ _ ho => exec_begins hb ((checkSession_eq_none s).2 ho)
  · exact fun _ _ _ _ ho => exec_begins hb ((checkSession_eq_none s).2 ho)
  · exact fun _ count ho hz => exec_begins hb ((checkRun_eq_none count s).2 ⟨ho, hz⟩)
  · exact fun base count ho hz hr => exec_begins hb ((checkBlit_eq_none base count s).2 ⟨⟨ho, hz⟩, hr⟩)
  · exact fun ho => exec_begins hb ((checkSessbeg_eq_none s).2 ho)
  · exact fun ho => exec_begins hb ((checkSessend_eq_none s).2 ho)
  · exact fun valid tc td hl ht => exec_begins hb ((checkInitln_eq_none valid tc td s).2 ⟨hl, ht⟩)
  · exact fun ho => exec_begins hb ((checkHalt_eq_none s).2 ho)

end Sys2Proof.Machine
end

section
/-! PROOFS. The pseudo-instructions of the assembler (30 R91). -/

namespace Sys2Proof.Machine

theorem fit_of_lt {w n : Nat} (h : n < 2 ^ w) : fit w n = some (BitVec.ofNat w n) := if_pos h

theorem fit_eq_none_iff {w n : Nat} : fit w n = none ↔ 2 ^ w ≤ n := by simp [fit]

/-- A number that is a field's value fits the field. -/
@[simp] theorem fit_toNat {w : Nat} (b : BitVec w) : fit w b.toNat = some b := by
  rw [fit_of_lt b.isLt, BitVec.ofNat_toNat, BitVec.setWidth_eq]

/-! ### CMDARGS -/

theorem fitBytes_map_num (bs : List Byte) : fitBytes (bs.map fun b => .num b.toNat) = some bs := by
  induction bs with
  | nil => rfl
  | cons b bs ih => simp [fitBytes, ih]

/-- Every argument byte is CONTINUE-framed but the last. -/
theorem argBytes_append_singleton (front : List Byte) (a : Byte) :
    argBytes (front ++ [a]) = front.map (fun b => .sendb .data .cont b) ++ [.sendb .data .last a] := by
  induction front with
  | nil => rfl
  | cons b front ih =>
    have hcons : argBytes (b :: (front ++ [a])) = .sendb .data .cont b :: argBytes (front ++ [a]) := by
      cases front <;> rfl
    rw [List.cons_append, hcons, ih]
    rfl

theorem cmdArgs_append_singleton (c : Byte) (front : List Byte) (a : Byte) :
    cmdArgs c (front ++ [a]) =
      .sendb .cmd .cont c :: front.map (fun b => .sendb .data .cont b) ++ [.sendb .data .last a] := by
  have hargs : cmdArgs c (front ++ [a]) = .sendb .cmd .cont c :: argBytes (front ++ [a]) := by cases front <;> rfl
  rw [hargs, argBytes_append_singleton]
  rfl

theorem assemble_cmdargs (c : Byte) (bs : List Byte) :
    assemble .cmdargs (.num c.toNat :: bs.map fun b => .num b.toNat) = some (cmdArgs c bs) := by
  simp [assemble, fitBytes_map_num]

/-! ### PIXEL, HRUN, VRUN and RECT -/

/-- SETWIN and FILL are assembled exactly where the coordinates and the count fit. -/
theorem asmRun_eq (x0 y0 x1 y1 : Nat) (c : Half) (n : Nat) :
    asmRun x0 y0 x1 y1 c.toNat n =
      if x0 < 2 ^ 16 ∧ y0 < 2 ^ 16 ∧ x1 < 2 ^ 16 ∧ y1 < 2 ^ 16 ∧ n < 2 ^ 32 then
        some [.setwin (BitVec.ofNat 16 x0) (BitVec.ofNat 16 y0) (BitVec.ofNat 16 x1) (BitVec.ofNat 16 y1),
          .fill c (BitVec.ofNat 32 n)]
      else none := by
  unfold asmRun asmSetwin asmFill
  rw [fit_toNat]
  by_cases h : x0 < 2 ^ 16 ∧ y0 < 2 ^ 16 ∧ x1 < 2 ^ 16 ∧ y1 < 2 ^ 16 ∧ n < 2 ^ 32
  · rw [if_pos h]
    obtain ⟨hx0, hy0, hx1, hy1, hn⟩ := h
    rw [fit_of_lt hx0, fit_of_lt hy0, fit_of_lt hx1, fit_of_lt hy1, fit_of_lt hn]
  · have hnone : fit 16 x0 = none ∨ fit 16 y0 = none ∨ fit 16 x1 = none ∨ fit 16 y1 = none ∨ fit 32 n = none := by
      simp only [fit_eq_none_iff]
      omega
    rw [if_neg h]
    rcases hnone with h | h | h | h | h <;> simp [h]

/-- A zero extent is refused first, then what does not fit: together they are the reasons for refusal. -/
theorem ite_none_ite_eq {α : Type} {zero fits refused : Prop} [Decidable zero] [Decidable fits] [Decidable refused]
    (h : refused ↔ zero ∨ ¬ fits) (a : α) :
    (if zero then none else if fits then some a else none) = if refused then none else some a := by
  by_cases hz : zero
  · rw [if_pos hz, if_pos (h.2 (.inl hz))]
  · by_cases hf : fits
    · rw [if_neg hz, if_pos hf, if_neg (by simp [h, hz, hf])]
    · rw [if_neg hz, if_neg hf, if_pos (h.2 (.inr hf))]

/-- Settles O60: the operands that are field values fit, and a run is refused where an extent is zero or a number does not fit. -/
theorem pseudoInstructionsExpand : Obligations.PseudoInstructionsExpand := by
  refine ⟨?_, ?_, ?_, ?_, ?_, ?_, ?_, ?_, ?_, ?_, ?_, ?_⟩
  · exact fun c => congrArg (Option.map _) (fit_toNat c)
  · exact fun c => congrArg (Option.map _) (fit_toNat c)
  · exact fun d => congrArg (Option.map _) (fit_toNat d)
  · exact fun d => congrArg (Option.map _) (fit_toNat d)
  · exact fun d => congrArg (Option.map _) (fit_toNat d)
  · exact fun d => congrArg (Option.map _) (fit_toNat d)
  · exact fun c => assemble_cmdargs c []
  · intro c front a
    rw [assemble_cmdargs, cmdArgs_append_singleton]
  · intro x y c
    rw [assemble, asmRun_eq, if_pos ⟨x.isLt, y.isLt, x.isLt, y.isLt, by decide⟩]
    simp
  · intro x y w c hy
    rw [assemble, asmRun_eq]
    exact ite_none_ite_eq (by omega) _
  · intro x y h c hx
    rw [assemble, asmRun_eq]
    exact ite_none_ite_eq (by omega) _
  · intro x y w h c
    rw [assemble, asmRun_eq, Option.map_if]
    exact ite_none_ite_eq (by omega) _

end Sys2Proof.Machine
end

section
/-! PROOFS. One EXEC step of a framing micro-operation: what it answers where it is performed, held or faulted (40 R100 to
R109), and so what SENDB, SENDW and every wait and SUBMIT do; the static check the bus operations share (40 R117). -/

namespace Sys2Proof.Machine

open Claims (between atUop passed queued token uopCount runOperation busOperation)

/-! ### What performing a micro-operation gives -/

theorem tokOf_eq_token (s : State) (sel : LineSel) : tokOf s sel = token s sel := by cases sel <;> rfl

theorem perform_submit {s : State} {src : Src} {v : Payload} (sel : LineSel) (last : Bool)
    (room : s.txq.length < s.params.fifoDepth) (hv : readSrc s src = some v) :
    perform (.submit sel src last) s = .done (s.enqueue ⟨token s sel, v, last⟩) := by
  have hroom : ¬ s.params.fifoDepth ≤ s.level := by simpa [State.level] using room
  simp [perform, State.holds, doSubmit, hroom, hv, tokOf_eq_token]

theorem perform_submit_done {s x : State} {sel : LineSel} {src : Src} {last : Bool}
    (h : perform (.submit sel src last) s = .done x) :
    ∃ v, readSrc s src = some v ∧ x = s.enqueue ⟨token s sel, v, last⟩ := by
  simp only [perform, State.holds, Bool.false_eq_true, if_false, doSubmit] at h
  split at h
  · cases h
  · split at h
    · next v hv =>
      cases h
      exact ⟨v, hv, by rw [tokOf_eq_token]⟩
    · cases h

theorem perform_submit_full {s : State} (sel : LineSel) (src : Src) (last : Bool) (h : s.params.fifoDepth ≤ s.txq.length) :
    perform (.submit sel src last) s = .raised .queueOverflow := by
  simp [perform, State.holds, doSubmit, State.level, h]

theorem perform_waitLe (s : State) :
    perform .waitLe s = if s.txq.length ≤ s.params.fullThreshold then .done s else .held := by
  by_cases h : s.txq.length ≤ s.params.fullThreshold
  · simp [perform, State.holds, State.level, h, Nat.not_lt.2 h]
  · simp [perform, State.holds, State.level, h, Nat.not_le.1 h]

theorem perform_clearTcf (s : State) : perform .clearTcf s = .done { s with tcf := false } := rfl

theorem perform_waitEmpty (s : State) : perform .waitEmpty s = if s.txq = [] then .done s else .held := by
  cases h : s.txq <;> simp [perform, State.holds, h]

theorem perform_waitTcf (s : State) : perform .waitTcf s = if s.tcf = true then .done s else .held := by
  cases h : s.tcf <;> simp [perform, State.holds, h]

/-! ### What the EXEC step answers -/

section
variable {i : Instr} {k : Nat} {u : Uop} {s : State} (ha : atUop i k s) (hu : uopAt s.params i k = some u)
include ha hu

/-- A performed micro-operation is passed: another one follows exactly below the operation's count. -/
theorem exec_of_done {x : State} (hp : perform u s = .done x) : exec i s = .next (passed i k x) := by
  have hk : k < uopCount i := (expansionsHaveTheirLength s.params i k).1 (by rw [hu]; rfl)
  have hnext := expansionsHaveTheirLength s.params i (k + 1)
  rw [exec_exec i k s ha.1 ha.2, execStep_eq_outcome hu, hp, Performed.outcome, passed]
  by_cases hlast : k + 1 = uopCount i
  · rw [if_neg (by rw [hnext]; omega), if_pos hlast, words_eq_wordCount]
    rfl
  · rw [if_pos (hnext.2 (by omega)), if_neg hlast]
    rfl

theorem exec_of_held (hp : perform u s = .held) : exec i s = .next s := by
  rw [exec_exec i k s ha.1 ha.2, execStep_eq_outcome hu, hp, Performed.outcome]

theorem exec_of_raised {c : FaultCode} (hp : perform u s = .raised c) : exec i s = .next (s.raise c) := by
  rw [exec_exec i k s ha.1 ha.2, execStep_eq_outcome hu, hp, Performed.outcome]

/-- A wait that asks for `c` passes iff `c` holds, and writes nothing either way. -/
theorem exec_of_wait {c : Prop} [Decidable c] (hp : perform u s = if c then .done s else .held) :
    exec i s = .next (if c then passed i k s else s) := by
  by_cases h : c
  · rw [if_pos h, exec_of_done ha hu (hp.trans (if_pos h))]
  · rw [if_neg h, exec_of_held ha hu (hp.trans (if_neg h))]

end

/-- SUBMIT's append, with the model's note written out (log 28). -/
theorem enqueue_eq_queued {i : Instr} {k : Nat} {s : State} (ha : atUop i k s) (f : Frame) :
    s.enqueue f = queued (runOperation i) f s := by
  unfold State.enqueue queued
  rw [inRun_eq_runOperation ha.2]

section
variable {i : Instr} {k : Nat} {s : State} (ha : atUop i k s)
include ha

theorem exec_submit {sel : LineSel} {src : Src} {last : Bool} {v : Payload}
    (hu : uopAt s.params i k = some (.submit sel src last)) (room : s.txq.length < s.params.fifoDepth)
    (hv : readSrc s src = some v) :
    exec i s = .next (passed i k (queued (runOperation i) ⟨token s sel, v, last⟩ s)) := by
  rw [exec_of_done ha hu (perform_submit sel last room hv), enqueue_eq_queued ha]

theorem exec_waitLe (hu : uopAt s.params i k = some .waitLe) :
    exec i s = .next (if s.txq.length ≤ s.params.fullThreshold then passed i k s else s) :=
  exec_of_wait ha hu (perform_waitLe s)

theorem exec_clearTcf (hu : uopAt s.params i k = some .clearTcf) : exec i s = .next (passed i k { s with tcf := false }) :=
  exec_of_done ha hu (perform_clearTcf s)

theorem exec_waitEmpty (hu : uopAt s.params i k = some .waitEmpty) :
    exec i s = .next (if s.txq = [] then passed i k s else s) :=
  exec_of_wait ha hu (perform_waitEmpty s)

theorem exec_waitTcf (hu : uopAt s.params i k = some .waitTcf) :
    exec i s = .next (if s.tcf = true then passed i k s else s) :=
  exec_of_wait ha hu (perform_waitTcf s)

end

/-- Settles O25: the queue is full, or it takes the value of the immediate or of the PMEM element. -/
theorem submitAppendsOneFrame : Obligations.SubmitAppendsOneFrame := by
  intro s i k sel src last ha hu
  refine ⟨fun hfull => exec_of_raised ha hu (perform_submit_full sel src last hfull), fun room => ⟨?_, ?_, ?_⟩⟩
  · rintro u rfl
    exact exec_submit ha hu room rfl
  · rintro u rfl
    exact exec_submit ha hu room rfl
  · rintro a rfl hsize
    exact exec_submit ha hu room (by simp [readSrc, readPmem, hsize])

/-- Settles O14: each clause is the rule of its micro-operation at its place in the list. -/
theorem sendOperationsRun : Obligations.SendOperationsRun := by
  intro s sel
  refine ⟨fun v => ⟨?_, ?_, ?_, ?_, ?_⟩, fun v => ⟨?_, ?_, ?_, ?_, ?_, ?_⟩⟩
  · exact fun ha room => exec_submit ha rfl room rfl
  · exact fun ha hle => (exec_waitLe ha rfl).trans (by rw [if_pos hle]; rfl)
  · exact fun ha => exec_clearTcf ha rfl
  · exact fun ha room => exec_submit ha rfl room rfl
  · exact fun ha hflag => (exec_waitTcf ha rfl).trans (by rw [if_pos hflag]; rfl)
  · exact fun ha room => exec_submit ha rfl room rfl
  · exact fun ha hle => (exec_waitLe ha rfl).trans (by rw [if_pos hle]; rfl)
  · exact fun ha => exec_clearTcf ha rfl
  · exact fun ha room => exec_submit ha rfl room rfl
  · exact fun ha hempty => (exec_waitEmpty ha rfl).trans (by rw [if_pos hempty]; rfl)
  · exact fun ha hflag => (exec_waitTcf ha rfl).trans (by rw [if_pos hflag]; rfl)

/-! ### The shared static check -/

/-- Outside a session the first check of every bus operation fails (40 R117, 60 R202). -/
theorem staticCheck_noSession {i : Instr} {s : State} (hi : busOperation i = true) (ho : s.owner ≠ .self) :
    staticCheck i s = some .noSession := by
  cases i with
  | sendb | sendw | setwin => exact if_neg ho
  | fill color count => exact if_pos ho
  | blit base count => simp [staticCheck, checkBlit, checkRun, ho]
  | sessbeg | sessend | initln | halt => cases hi

/-- Settles O10: the check all five share comes first. -/
theorem busOperationsNeedASession : Obligations.BusOperationsNeedASession := by
  intro s i hb hi ho
  rw [exec_decode i s hb.1 hb.2, staticCheck_noSession hi ho]
  rfl

end Sys2Proof.Machine
end

section
/-! PROOFS. The frame of the operations that submit frames (40 R102 to R104, 41 R130, 42 R140, R141; 60 R200). -/

namespace Sys2Proof.Machine

open Claims (atUop queued token runOperation busOperation keepsEngineAndMemory keepsFault)

/-! ### Outside the control registers -/

/-- Outside its control registers `exec` writes what one performed micro-operation writes, or nothing. -/
theorem exec_performs {i : Instr} {s t : State} (h : exec i s = .next t) :
    ∃ x, (x = s ∨ ∃ k u, atUop i k s ∧ uopAt s.params i k = some u ∧ UopDid s u x) ∧ SameButControl x t := by
  obtain ⟨-, rfl⟩ | ⟨-, -, ⟨-, rfl⟩ | ⟨c, -, rfl⟩⟩ | ⟨k, hrun, hcur, h⟩ := exec_next h
  · exact ⟨t, .inl rfl, by constructor <;> rfl⟩
  · exact ⟨s, .inl rfl, by constructor <;> rfl⟩
  · exact ⟨s, .inl rfl, by constructor <;> rfl⟩
  · obtain ⟨u, hu, ⟨x, hp, hx⟩ | ⟨-, rfl⟩ | ⟨-, rfl⟩ | ⟨c, -, rfl⟩⟩ := execStep_next h
    · refine ⟨x, .inr ⟨k, u, ⟨hrun, hcur⟩, hu, uopDid_of_perform hp⟩, ?_⟩
      obtain ⟨-, rfl⟩ | ⟨-, rfl⟩ := hx <;> constructor <;> rfl
    · exact ⟨s, .inl rfl, by constructor <;> rfl⟩
    · exact ⟨t, .inl rfl, by constructor <;> rfl⟩
    · exact ⟨s, .inl rfl, by constructor <;> rfl⟩

/-- What a bus operation can write outside the control registers: nothing, the cleared flag, or one frame at the tail of the
queue. -/
inductive BusDid (s : State) (i : Instr) : State → Prop
  | nothing : BusDid s i s
  | cleared (k : Nat) (ha : atUop i k s) (hu : uopAt s.params i k = some .clearTcf) : BusDid s i s.clearTcf
  | appended (k : Nat) (ha : atUop i k s) (sel : LineSel) (src : Src) (f : Frame)
      (hu : uopAt s.params i k = some (.submit sel src f.last)) (ht : f.tok = token s sel) :
    BusDid s i (queued (runOperation i) f s)

theorem busDid_of_exec {i : Instr} {s t : State} (hi : busOperation i = true) (h : exec i s = .next t) :
    ∃ x, BusDid s i x ∧ SameButControl x t := by
  obtain ⟨x, rfl | ⟨k, u, ha, hu, hd⟩, ht⟩ := exec_performs h
  · exact ⟨x, .nothing, ht⟩
  · refine ⟨x, ?_, ht⟩
    have hf := isFraming_of_busOperation hi hu
    cases hd with
    | waitLe | waitEmpty | waitTcf => exact .nothing
    | clearTcf => exact .cleared k ha hu
    | submit sel src last v =>
      rw [enqueue_eq_queued ha]
      exact .appended k ha sel src _ hu (tokOf_eq_token s sel)
    | acquire | release | installLines | lockLines => cases hf

theorem BusDid.keepsEngineAndMemory {s x : State} {i : Instr} (h : BusDid s i x) : keepsEngineAndMemory s x := by
  cases h <;> exact ⟨rfl, fun _ => rfl, fun _ => rfl, rfl, rfl, rfl, rfl, rfl, rfl, rfl, rfl⟩

/-- The control registers are none of the engine's and hold no memory. -/
theorem SameButControl.keepsEngineAndMemory {s x t : State} (ht : SameButControl x t) (h : keepsEngineAndMemory s x) :
    keepsEngineAndMemory s t := by
  obtain ⟨hparams, -, -, hdmem, hpmem, hshifter, hcs, hwire, hschedule, hpolicy, hdraws⟩ := h
  have hdmem' : t.dmem = s.dmem := ht.dmem.trans hdmem
  have hpmem' : t.pmem = s.pmem := ht.pmem.trans hpmem
  exact ⟨ht.params.trans hparams, fun a => by rw [hdmem'], fun a => by rw [hpmem'], hdmem', hpmem', ht.shifter.trans hshifter,
    ht.cs.trans hcs, ht.wire.trans hwire, ht.schedule.trans hschedule, ht.policy.trans hpolicy, ht.draws.trans hdraws⟩

/-! ### The fault registers -/

theorem keepsFault_raise {s : State} (hm : s.mode = .run) (c : FaultCode) : keepsFault s (s.raise c) :=
  .inr ⟨hm, rfl, rfl⟩

/-- No performed micro-operation writes the fault registers or the mode. -/
theorem UopDid.fault_eq {u : Uop} {s x : State} (hd : UopDid s u x) :
    x.fault = s.fault ∧ x.faultDp = s.faultDp ∧ x.mode = s.mode := by
  cases hd <;> exact ⟨rfl, rfl, rfl⟩

/-- A bus operation writes the fault registers and the mode at a fault entry only: it has no STOP. -/
theorem keepsFault_of_exec {i : Instr} {s t : State} (hi : busOperation i = true) (h : exec i s = .next t) :
    keepsFault s t := by
  obtain ⟨-, rfl⟩ | ⟨hrun, -, ⟨-, rfl⟩ | ⟨c, -, rfl⟩⟩ | ⟨k, hrun, hcur, h⟩ := exec_next h
  · exact .inl ⟨rfl, rfl, rfl⟩
  · exact .inl ⟨rfl, rfl, rfl⟩
  · exact keepsFault_raise hrun c
  · obtain ⟨u, hu, ⟨x, hp, hx⟩ | ⟨rfl, -⟩ | ⟨-, rfl⟩ | ⟨c, -, rfl⟩⟩ := execStep_next h
    · have hkeep := (uopDid_of_perform hp).fault_eq
      obtain ⟨-, rfl⟩ | ⟨-, rfl⟩ := hx <;> exact .inl hkeep
    · cases isFraming_of_busOperation hi hu
    · exact .inl ⟨rfl, rfl, rfl⟩
    · exact keepsFault_raise hrun c

/-! ### The frame -/

/-- SETWIN is made of CONTINUE units, so it never clears the flag (41 R130). -/
theorem uopAt_setwin_ne_clearTcf (p : Params) (x0 y0 x1 y1 : Half) (k : Nat) :
    uopAt p (.setwin x0 y0 x1 y1) k ≠ some .clearTcf := by
  intro h
  have hmem := List.mem_of_getElem? h
  simp [setwinUops, unitC] at hmem

/-- Settles O27: by the three things a bus operation can write. -/
theorem busOperationFrame : Obligations.BusOperationFrame := by
  intro s t i hi h
  obtain ⟨x, hx, ht⟩ := busDid_of_exec hi h
  refine ⟨ht.keepsEngineAndMemory hx.keepsEngineAndMemory, keepsFault_of_exec hi h, ?_⟩
  rw [ht.tokCmd, ht.tokData, ht.linesLocked, ht.linesValid, ht.owner, ht.busCfg, ht.savedCfg, ht.txq, ht.fromRun, ht.tcf]
  cases hx with
  | nothing => exact ⟨rfl, rfl, rfl, rfl, rfl, rfl, rfl, .inl ⟨rfl, rfl⟩, .inl rfl, fun _ _ _ _ _ => rfl⟩
  | cleared k ha hu =>
    refine ⟨rfl, rfl, rfl, rfl, rfl, rfl, rfl, .inl ⟨rfl, rfl⟩, .inr ⟨curUop_eq_some.2 ⟨_, ha.2, hu⟩, rfl⟩, ?_⟩
    rintro x0 y0 x1 y1 rfl
    exact absurd hu (uopAt_setwin_ne_clearTcf _ x0 y0 x1 y1 k)
  | appended k ha sel src f hu htok =>
    exact ⟨rfl, rfl, rfl, rfl, rfl, rfl, rfl, .inr ⟨sel, src, f, curUop_eq_some.2 ⟨_, ha.2, hu⟩, htok, rfl, rfl⟩, .inl rfl,
      fun _ _ _ _ _ => rfl⟩

end Sys2Proof.Machine
end

section
/-! PROOFS. The expansion of a pixel run as the list of its units (42 R140, R141), and what stands next to each
micro-operation of an operation (40 R101 to R103). -/

namespace Sys2Proof.Machine

open Claims (atUop token busOperation)

/-! ### A pixel run -/

theorem runUop_submit {count n : Nat} (pixel : Nat → Src) (hn : n + 1 < count) :
    runUop count pixel (2 * n) = some (.submit .data (pixel n) false) := by
  simp [runUop, unitC, show count ≠ 0 by omega, show n < count - 1 by omega]

theorem runUop_waitLe {count n : Nat} (pixel : Nat → Src) (hn : n + 1 < count) :
    runUop count pixel (2 * n + 1) = some .waitLe := by
  simp [runUop, unitC, show count ≠ 0 by omega, show 2 * n + 1 < 2 * (count - 1) by omega, show (2 * n + 1) % 2 = 1 by omega]

/-- After its CONTINUE units a run has the LAST unit of its last pixel. -/
theorem runUop_lastUnit {count : Nat} (pixel : Nat → Src) (j : Nat) (hc : count ≠ 0) :
    runUop count pixel (2 * (count - 1) + j) = (unitL16 .data (pixel (count - 1)))[j]? := by
  simp [runUop, hc]

/-- A place among `n` CONTINUE units is the SUBMIT or the WAIT_LE of one of them, and a place after them is past them. -/
theorem place_cases (n k : Nat) : (∃ m, m < n ∧ (k = 2 * m ∨ k = 2 * m + 1)) ∨ ∃ j, k = 2 * n + j := by
  by_cases h : k < 2 * n
  · exact .inl ⟨k / 2, by omega, by omega⟩
  · exact .inr ⟨k - 2 * n, by omega⟩

/-- CONTINUE units one after the other. -/
def contUnits (us : List (LineSel × Src)) : List Uop := (us.map fun x => unitC x.1 x.2).flatten

@[simp] theorem length_contUnits (us : List (LineSel × Src)) : (contUnits us).length = 2 * us.length := by
  simp [contUnits, List.length_flatten, Function.comp_def, unitC, Nat.mul_comm]

/-- Unit `m` holds places `2 m` and `2 m + 1`. -/
theorem getElem?_contUnits {us : List (LineSel × Src)} {m j : Nat} {x : LineSel × Src} (hm : us[m]? = some x) (hj : j < 2) :
    (contUnits us)[2 * m + j]? = (unitC x.1 x.2)[j]? := by
  induction us generalizing m with
  | nil => simp at hm
  | cons y us ih =>
    cases m with
    | zero =>
      cases hm
      rw [Nat.mul_zero, Nat.zero_add, contUnits, List.map_cons, List.flatten_cons, List.getElem?_append_left hj]
    | succ m =>
      rw [show 2 * (m + 1) + j = 2 * m + j + 2 by omega]
      exact ih hm

/-- The micro-operations of a pixel run, written out (42 R140, R141). -/
def runUops (count : Nat) (pixel : Nat → Src) : List Uop :=
  contUnits ((List.range (count - 1)).map fun n => (.data, pixel n)) ++ unitL16 .data (pixel (count - 1))

/-- Computed by position, a run is the list of its units. -/
theorem runUop_eq_getElem? {count : Nat} (pixel : Nat → Src) (hc : count ≠ 0) (k : Nat) :
    runUop count pixel k = (runUops count pixel)[k]? := by
  have hlen : (contUnits ((List.range (count - 1)).map fun n => (.data, pixel n))).length = 2 * (count - 1) := by simp
  have hunit : ∀ {m : Nat}, m < count - 1 →
      ((List.range (count - 1)).map fun n => (LineSel.data, pixel n))[m]? = some (.data, pixel m) := fun hm => by simp [hm]
  obtain ⟨m, hm, rfl | rfl⟩ | ⟨j, rfl⟩ := place_cases (count - 1) k
  · rw [runUop_submit pixel (by omega), runUops, List.getElem?_append_left (by omega)]
    exact (getElem?_contUnits (hunit hm) (j := 0) (by omega)).symm
  · rw [runUop_waitLe pixel (by omega), runUops, List.getElem?_append_left (by omega)]
    exact (getElem?_contUnits (hunit hm) (j := 1) (by omega)).symm
  · rw [runUop_lastUnit pixel j hc, runUops, List.getElem?_append_right (by omega), hlen, Nat.add_sub_cancel_left]

/-- Settles O23: both are `runUops` of their pixels. -/
theorem runExpansionsAreTheListsOfUnits : Obligations.RunExpansionsAreTheListsOfUnits := by
  intro p count hcount
  have hc : count.toNat ≠ 0 := fun e => hcount (BitVec.eq_of_toNat_eq e)
  refine ⟨fun color k => ?_, fun base k => ?_⟩
  · refine (runUop_eq_getElem? (fun _ => .half color) hc k).trans ?_
    simp only [runUops, contUnits, List.map_const', List.length_range, List.map_replicate]
    rfl
  · refine (runUop_eq_getElem? (fun n => .pmem (base.toNat + n)) hc k).trans ?_
    rw [show base.toNat + count.toNat - 1 = base.toNat + (count.toNat - 1) by omega]
    simp only [runUops, contUnits, List.map_map, Function.comp_def]
    rfl

/-! ### What stands next to a micro-operation -/

/-- Micro-operation `k` of an operation, with what stands next to it. -/
inductive UopPlace (p : Params) (i : Instr) (k : Nat) : Uop → Prop
  /-- SUBMIT of a CONTINUE unit -/
  | contSubmit (sel : LineSel) (src : Src) (hn : uopAt p i (k + 1) = some .waitLe) : UopPlace p i k (.submit sel src false)
  /-- WAIT_LE ends a CONTINUE unit; another unit follows, or the operation is at its end -/
  | waitLe (hn : uopAt p i (k + 1) = none ∨ uopAt p i (k + 1) = some .clearTcf ∨
      ∃ sel src, uopAt p i (k + 1) = some (.submit sel src false)) : UopPlace p i k .waitLe
  /-- CLEAR_TCF begins a LAST unit -/
  | clearTcf (sel : LineSel) (src : Src) (hn : uopAt p i (k + 1) = some (.submit sel src true)) : UopPlace p i k .clearTcf
  /-- SUBMIT of the LAST unit sends the operation's tagged frame; WAIT_EMPTY follows it for a 16-bit value only -/
  | lastSubmit (sel : LineSel) (src : Src)
      (ht : ∀ s v, readSrc s src = some v → taggedFrame s i = some ⟨token s sel, v, true⟩)
      (hn : uopAt p i (k + 1) = some .waitTcf ∨ uopAt p i (k + 1) = some .waitEmpty) : UopPlace p i k (.submit sel src true)
  /-- WAIT_EMPTY stands between the LAST SUBMIT and WAIT_TCF -/
  | waitEmpty (sel : LineSel) (src : Src) (hk : 1 ≤ k) (hp : uopAt p i (k - 1) = some (.submit sel src true))
      (hs : ∀ u, src ≠ .byte u) (hn : uopAt p i (k + 1) = some .waitTcf) : UopPlace p i k .waitEmpty
  /-- WAIT_TCF is the operation's last -/
  | waitTcf (hn : uopAt p i (k + 1) = none) : UopPlace p i k .waitTcf
  /-- the one micro-operation of an operation that submits nothing -/
  | sole {u : Uop} (hu : u.isFraming = false) (hn : uopAt p i (k + 1) = none) : UopPlace p i k u

section
variable {p : Params} {i : Instr} {sel : LineSel} {src : Src}

/-- The two places of a CONTINUE unit. -/
theorem uopPlace_unitC {k j : Nat} {u : Uop} (h0 : uopAt p i k = some (.submit sel src false))
    (h1 : uopAt p i (k + 1) = some .waitLe)
    (hn : uopAt p i (k + 2) = none ∨ uopAt p i (k + 2) = some .clearTcf ∨
      ∃ sel src, uopAt p i (k + 2) = some (.submit sel src false))
    (hj : j < 2) (hu : uopAt p i (k + j) = some u) : UopPlace p i (k + j) u := by
  obtain rfl | rfl : j = 0 ∨ j = 1 := by omega
  · cases h0.symm.trans hu
    exact .contSubmit sel src h1
  · cases h1.symm.trans hu
    exact .waitLe hn

/-- The places of a LAST unit. -/
theorem uopPlace_unitL16 {k j : Nat} {u : Uop} (h : ∀ j, uopAt p i (k + j) = (unitL16 sel src)[j]?)
    (ht : ∀ s v, readSrc s src = some v → taggedFrame s i = some ⟨token s sel, v, true⟩)
    (hs : ∀ u, src ≠ .byte u) (hu : uopAt p i (k + j) = some u) : UopPlace p i (k + j) u := by
  have hu' := (h j).symm.trans hu
  obtain _ | _ | _ | _ | j := j
  · cases hu'
    exact .clearTcf sel src (h 1)
  · cases hu'
    exact .lastSubmit sel src ht (.inr (h 2))
  · cases hu'
    exact .waitEmpty sel src (by omega) (h 1) hs (h 3)
  · cases hu'
    exact .waitTcf (h 4)
  · cases hu'

/-- The places of a pixel run. -/
theorem uopPlace_run {count : Nat} {pixel : Nat → Src} {k : Nat} {u : Uop} (h : uopAt p i = runUop count pixel)
    (ht : ∀ s v, readSrc s (pixel (count - 1)) = some v → taggedFrame s i = some ⟨s.tokData, v, true⟩)
    (hs : ∀ n u, pixel n ≠ .byte u) (hu : uopAt p i k = some u) : UopPlace p i k u := by
  have hc : count ≠ 0 := by
    rintro rfl
    rw [h] at hu
    cases hu
  have hlast : ∀ j, uopAt p i (2 * (count - 1) + j) = (unitL16 .data (pixel (count - 1)))[j]? := fun j => by
    rw [h, runUop_lastUnit pixel j hc]
  obtain ⟨m, hm, hk⟩ | ⟨j, rfl⟩ := place_cases (count - 1) k
  · obtain ⟨j, hj, rfl⟩ : ∃ j, j < 2 ∧ k = 2 * m + j := ⟨k - 2 * m, by omega, by omega⟩
    refine uopPlace_unitC (by rw [h, runUop_submit pixel (by omega)]) (by rw [h, runUop_waitLe pixel (by omega)]) ?_ hj hu
    by_cases hend : m + 1 = count - 1
    · have h0 := hlast 0
      rw [show 2 * (count - 1) + 0 = 2 * m + 2 by omega] at h0
      exact .inr (.inl h0)
    · exact .inr (.inr ⟨.data, pixel (m + 1), by
        rw [h, show 2 * m + 2 = 2 * (m + 1) by omega, runUop_submit pixel (by omega)]⟩)
  · exact uopPlace_unitL16 hlast ht (hs _) hu

/-- The places of an operation made of CONTINUE units alone. -/
theorem uopPlace_contUnits {us : List (LineSel × Src)} {k : Nat} {u : Uop} (h : ∀ k, uopAt p i k = (contUnits us)[k]?)
    (hu : uopAt p i k = some u) : UopPlace p i k u := by
  have hk : k < 2 * us.length := by
    obtain ⟨hk, -⟩ := List.getElem?_eq_some_iff.1 ((h k).symm.trans hu)
    rwa [length_contUnits] at hk
  have hunit : ∀ {m j : Nat} {x : LineSel × Src}, us[m]? = some x → j < 2 → uopAt p i (2 * m + j) = (unitC x.1 x.2)[j]? :=
    fun hm hj => (h _).trans (getElem?_contUnits hm hj)
  obtain ⟨m, j, hm, hj, rfl⟩ : ∃ m j, m < us.length ∧ j < 2 ∧ k = 2 * m + j :=
    ⟨k / 2, k % 2, by omega, by omega, by omega⟩
  have hx := List.getElem?_eq_getElem hm
  refine uopPlace_unitC (hunit hx (j := 0) (by omega)) (hunit hx (j := 1) (by omega)) ?_ hj hu
  by_cases hend : m + 1 < us.length
  · exact .inr (.inr ⟨_, _, hunit (List.getElem?_eq_getElem hend) (j := 0) (by omega)⟩)
  · exact .inl ((h _).trans (List.getElem?_eq_none (by rw [length_contUnits]; omega)))

end

/-- Every micro-operation of every operation stands at one of these places. -/
theorem uopPlace_of_uopAt {p : Params} {i : Instr} {k : Nat} {u : Uop} (h : uopAt p i k = some u) : UopPlace p i k u := by
  cases i with
  | sendb sel frm v =>
    cases frm with
    | cont =>
      match k, h with
      | 0, h => cases h; exact .contSubmit sel (.byte v) rfl
      | 1, h => cases h; exact .waitLe (.inl rfl)
    | last =>
      match k, h with
      | 0, h => cases h; exact .clearTcf sel (.byte v) rfl
      | 1, h => cases h; exact .lastSubmit sel (.byte v) (by rintro s _ ⟨⟩; simp [taggedFrame, tokOf_eq_token]) (.inl rfl)
      | 2, h => cases h; exact .waitTcf rfl
  | sendw sel frm v =>
    cases frm with
    | cont =>
      match k, h with
      | 0, h => cases h; exact .contSubmit sel (.half v) rfl
      | 1, h => cases h; exact .waitLe (.inl rfl)
    | last =>
      rw [← Nat.zero_add k] at h ⊢
      refine uopPlace_unitL16 (sel := sel) (src := .half v) (fun j => by rw [Nat.zero_add]; rfl) ?_ nofun h
      rintro s _ ⟨⟩
      simp [taggedFrame, tokOf_eq_token]
  | setwin x0 y0 x1 y1 =>
    exact uopPlace_contUnits (us := [(.cmd, .byte p.cmdColset), (.data, .half x0), (.data, .half x1), (.cmd, .byte p.cmdRowset),
      (.data, .half y0), (.data, .half y1), (.cmd, .byte p.cmdMemwrite)]) (fun _ => rfl) h
  | fill color count =>
    refine uopPlace_run (pixel := fun _ => .half color) rfl ?_ nofun h
    rintro s _ ⟨⟩
    rfl
  | blit base count =>
    refine uopPlace_run (pixel := fun n => .pmem (base.toNat + n)) rfl ?_ nofun h
    intro s v hv
    simp only [readSrc, readPmem] at hv
    split at hv
    · cases hv
      rfl
    · cases hv
  | sessbeg | sessend | initln | halt =>
    cases k with
    | zero => cases h; exact .sole rfl rfl
    | succ k => cases h

/-- An operation begins with a CONTINUE unit, with the CLEAR_TCF of a LAST unit, or with its sole micro-operation. -/
theorem uopAt_zero (p : Params) (i : Instr) :
    uopAt p i 0 = none ∨ uopAt p i 0 = some .clearTcf ∨ (∃ sel src, uopAt p i 0 = some (.submit sel src false)) ∨
      ∃ u, u.isFraming = false ∧ uopAt p i 0 = some u := by
  have hrun : ∀ count pixel, runUop count pixel 0 = none ∨ runUop count pixel 0 = some .clearTcf ∨
      ∃ sel src, runUop count pixel 0 = some (.submit sel src false) := by
    intro count pixel
    match count with
    | 0 => exact .inl rfl
    | 1 => exact .inr (.inl rfl)
    | n + 2 => exact .inr (.inr ⟨_, _, runUop_submit (n := 0) pixel (by omega)⟩)
  cases i with
  | sendb sel frm v | sendw sel frm v =>
    cases frm with
    | cont => exact .inr (.inr (.inl ⟨_, _, rfl⟩))
    | last => exact .inr (.inl rfl)
  | setwin => exact .inr (.inr (.inl ⟨_, _, rfl⟩))
  | fill color count => exact (hrun count.toNat fun _ => .half color).imp_right (.imp_right .inl)
  | blit base count => exact (hrun count.toNat fun n => .pmem (base.toNat + n)).imp_right (.imp_right .inl)
  | sessbeg | sessend | initln | halt => exact .inr (.inr (.inr ⟨_, rfl, rfl⟩))

/-- Only the operations that submit frames have framing micro-operations. -/
theorem busOperation_of_isFraming {p : Params} {i : Instr} {k : Nat} {u : Uop} (h : uopAt p i k = some u)
    (hf : u.isFraming = true) : busOperation i = true := by
  cases i with
  | sendb | sendw | setwin | fill | blit => rfl
  | sessbeg | sessend | initln | halt =>
    cases k with
    | zero => cases h; cases hf
    | succ k => cases h

/-- Settles O24: the rule of each wait, and the place of WAIT_EMPTY. -/
theorem waitsHoldOrPass : Obligations.WaitsHoldOrPass := by
  intro s i k ha
  refine ⟨exec_waitLe ha, exec_clearTcf ha, fun hu => ⟨exec_waitEmpty ha hu, ?_⟩, exec_waitTcf ha⟩
  cases uopPlace_of_uopAt hu with
  | waitEmpty sel src hk hp hs hn => exact ⟨sel, src, hp, hs, hk, hn⟩
  | sole hf => cases hf

end Sys2Proof.Machine
end

section
/-! PROOFS. The handshake invariant (40 R110, R113, R115): what it asks at each micro-operation, and that the sequencer, the
engine and the other consumers keep it. -/

namespace Sys2Proof.Machine

open Claims (atUop token)

/-! ### What the invariant asks -/

/-- What the handshake invariant asks of an operation that is to perform `o` next, or to retire where that is `none`. -/
def stance (s : State) (i : Instr) : Option Uop → Prop
  | some (.submit _ _ true) => s.roomy ∧ s.tcf = false
  | some .waitLe => noneTagged s.outstanding = true
  | some .waitEmpty | some .waitTcf => ∃ f, taggedFrame s i = some f ∧ s.awaiting f = true
  | _ => s.roomy

theorem handshakeOk_iff_roomy {s : State} (hc : s.cur = none) : s.handshakeOk = true ↔ s.roomy := by
  rw [handshakeOk_iff, hc]

theorem handshakeOk_iff_stance {s : State} {a : Active} (hc : s.cur = some a) :
    s.handshakeOk = true ↔ stance s a.op (uopAt s.params a.op a.k) := by
  have hu : s.curUop = uopAt s.params a.op a.k := by simp only [State.curUop, hc]
  rw [handshakeOk_iff, hc, hu]
  rcases uopAt s.params a.op a.k with _ | ⟨_, _, _ | _⟩ | _ <;> rfl

/-- Before a SUBMIT of either framing there is room. -/
theorem roomy_of_stance_submit {s : State} {i : Instr} {sel : LineSel} {src : Src} {last : Bool}
    (h : stance s i (some (.submit sel src last))) : s.roomy := by
  cases last with
  | false => exact h
  | true => exact h.1

theorem stance_of_not_framing {s : State} {i : Instr} {u : Uop} (hf : u.isFraming = false) :
    stance s i (some u) ↔ s.roomy := by
  cases u with
  | acquire | release | setLines | stopRun => exact .rfl
  | submit | waitLe | clearTcf | waitEmpty | waitTcf => cases hf

/-- The frame a LAST unit waits for is tagged. -/
theorem last_of_taggedFrame {s : State} {i : Instr} {f : Frame} (h : taggedFrame s i = some f) : f.last = true := by
  cases i with
  | sendb sel frm v | sendw sel frm v =>
    cases frm with
    | cont => cases h
    | last => cases h; rfl
  | fill | blit => cases h; rfl
  | setwin | sessbeg | sessend | initln | halt => cases h

theorem roomy_of_port_empty {s : State} (hq : s.txq = []) (hs : s.shifter = none) : s.roomy := by
  simp [State.roomy, State.outstanding, hq, hs]

/-! ### The sequencer -/

theorem noneTagged_enqueue (s : State) (f : Frame) :
    noneTagged (s.enqueue f).outstanding = true ↔ noneTagged s.outstanding = true ∧ f.last = false := by
  simp [State.outstanding, noneTagged_append, and_assoc]

/-- The wait for a tagged frame begins at its SUBMIT, with the flag clear (40 R106). -/
theorem awaiting_enqueue {s : State} (f : Frame) (hn : noneTagged s.outstanding = true) (ht : s.tcf = false) :
    (s.enqueue f).awaiting f = true := by
  have hout : (s.enqueue f).outstanding = s.outstanding ++ [f] := by simp [State.outstanding]
  rw [awaiting_iff]
  simp [hout, hn, ht]

/-- The wait for a tagged frame passes with the port empty. -/
theorem roomy_of_awaiting {s : State} {f : Frame} (h : s.awaiting f = true) (ht : s.tcf = true) : s.roomy := by
  obtain ⟨hq, hs, -, -⟩ := ((awaiting_iff s f).1 h).1 ht
  exact roomy_of_port_empty hq hs

/-- A performed micro-operation leaves what the next one asks. -/
theorem stance_of_done {s x : State} {i : Instr} {k : Nat} {u : Uop} (hu : uopAt s.params i k = some u)
    (h : stance s i (some u)) (hp : perform u s = .done x) : stance x i (uopAt s.params i (k + 1)) := by
  cases uopPlace_of_uopAt hu with
  | contSubmit sel src hn =>
    obtain ⟨v, -, rfl⟩ := perform_submit_done hp
    obtain ⟨-, hnone⟩ : s.roomy := h
    rw [hn]
    exact (noneTagged_enqueue s _).2 ⟨hnone, rfl⟩
  | waitLe hn =>
    rw [perform_waitLe] at hp
    split at hp
    · next hle =>
      cases hp
      have hroom : s.roomy := ⟨hle, h⟩
      obtain hn | hn | ⟨sel, src, hn⟩ := hn <;> rw [hn] <;> exact hroom
    · cases hp
  | clearTcf sel src hn =>
    cases hp
    rw [hn]
    exact ⟨h, rfl⟩
  | lastSubmit sel src ht hn =>
    obtain ⟨⟨-, hnone⟩, hflag⟩ := h
    obtain ⟨v, hread, rfl⟩ := perform_submit_done hp
    have hwait : ∃ f, taggedFrame s i = some f ∧ (s.enqueue ⟨token s sel, v, true⟩).awaiting f = true :=
      ⟨_, ht s v hread, awaiting_enqueue _ hnone hflag⟩
    obtain hn | hn := hn <;> rw [hn] <;> exact hwait
  | waitEmpty sel src hk hprev hs hn =>
    rw [perform_waitEmpty] at hp
    split at hp
    · cases hp
      rw [hn]
      exact h
    · cases hp
  | waitTcf hn =>
    rw [perform_waitTcf] at hp
    split at hp
    · next hflag =>
      cases hp
      obtain ⟨f, -, hwait⟩ := h
      rw [hn]
      exact roomy_of_awaiting hwait hflag
    · cases hp
  | sole hf hn =>
    rw [hn]
    have hroom := (stance_of_not_framing hf).1 h
    cases uopDid_of_perform hp with
    | acquire | release | installLines | lockLines => exact hroom
    | submit | waitLe | clearTcf | waitEmpty | waitTcf => cases hf

/-- A micro-operation that faults found room. -/
theorem roomy_of_raised {s : State} {i : Instr} {u : Uop} {c : FaultCode} (h : stance s i (some u))
    (hp : perform u s = .raised c) : s.roomy := by
  obtain ⟨-, ⟨sel, src, last, rfl, -, -⟩ | ⟨rfl, -, -⟩ | ⟨rfl, -, -⟩⟩ := perform_raised hp
  · exact roomy_of_stance_submit h
  · exact h
  · exact h

/-- The first micro-operation of an operation asks for room. -/
theorem stance_of_roomy {s : State} {i : Instr} (h : s.roomy) : stance s i (uopAt s.params i 0) := by
  obtain hu | hu | ⟨sel, src, hu⟩ | ⟨u, hf, hu⟩ := uopAt_zero s.params i <;> rw [hu]
  · exact h
  · exact h
  · exact h
  · exact (stance_of_not_framing hf).2 h

theorem handshakeOk_exec {i : Instr} {k : Nat} {s t : State} (ha : atUop i k s) (hs : s.handshakeOk = true)
    (h : exec i s = .next t) : t.handshakeOk = true := by
  rw [exec_exec i k s ha.1 ha.2] at h
  obtain ⟨u, hu, hcase⟩ := execStep_next h
  have hst : stance s i (some u) := by rw [← hu]; exact (handshakeOk_iff_stance ha.2).1 hs
  obtain ⟨x, hp, hx⟩ | ⟨rfl, rfl⟩ | ⟨-, rfl⟩ | ⟨c, hp, rfl⟩ := hcase
  · have hnext := stance_of_done hu hst hp
    obtain ⟨-, -, hparams⟩ := (uopDid_of_perform hp).control
    obtain ⟨-, rfl⟩ | ⟨hn, rfl⟩ := hx
    · rw [handshakeOk_iff_stance (a := ⟨i, k + 1⟩) rfl]
      rw [← hparams] at hnext
      exact hnext
    · rw [handshakeOk_iff_roomy rfl]
      rw [Option.isSome_eq_false_iff, Option.isNone_iff_eq_none] at hn
      rw [hn] at hnext
      exact hnext
  · exact (handshakeOk_iff_roomy rfl).2 hst
  · exact hs
  · have hroom : s.roomy := roomy_of_raised hst hp
    exact (handshakeOk_iff_roomy rfl).2 hroom

theorem handshakeOk_sequencerStep {s t : State} (hs : s.handshakeOk = true) (h : sequencerStep s = .next t) :
    t.handshakeOk = true := by
  obtain ⟨-, rfl⟩ | ⟨⟨i, k⟩, hm, hc, h⟩ | ⟨i, rest, hm, hc, hd, h⟩ | ⟨e, hm, hc, -, rfl⟩ := sequencerStep_next h
  · exact hs
  · exact handshakeOk_exec ⟨hm, hc⟩ hs h
  · have hroom : s.roomy := (handshakeOk_iff_roomy hc).1 hs
    rw [exec_decode i s hm hc] at h
    cases h
    cases staticCheck i s with
    | none =>
      have hfirst : stance (s.begin i) i (uopAt (s.begin i).params i 0) := stance_of_roomy (s := s.begin i) hroom
      exact (handshakeOk_iff_stance (s := s.begin i) rfl).2 hfirst
    | some c => exact (handshakeOk_iff_roomy rfl).2 hroom
  · exact (handshakeOk_iff_roomy rfl).2 ((handshakeOk_iff_roomy hc).1 hs)

/-! ### The engine -/

theorem noneTagged_engineStep {s : State} (h : noneTagged s.outstanding = true) :
    noneTagged (engineStep s).outstanding = true := by
  obtain ⟨f, hf, e⟩ | ⟨f, rest, hf, hq, e⟩ | ⟨-, -, e⟩ := engineStep_cases s
  · simp_all [State.outstanding]
  · simp_all [State.outstanding]
  · rwa [e]

theorem level_engineStep_le (s : State) : (engineStep s).txq.length ≤ s.txq.length := by
  obtain ⟨f, hf, e⟩ | ⟨f, rest, hf, hq, e⟩ | ⟨-, -, e⟩ := engineStep_cases s
  · simp [e]
  · simp [e, hq]
  · simp [e]

theorem roomy_engineStep {s : State} (h : s.roomy) : (engineStep s).roomy := by
  refine ⟨(level_engineStep_le s).trans ?_, noneTagged_engineStep h.2⟩
  rw [(engineStep_sameMemories s).params]
  exact h.1

/-- Under TAGGED the engine leaves the flag alone while no outstanding frame is tagged (40 R113). -/
theorem tcf_engineStep {s : State} (hmode : s.params.tcfMode = .tagged) (h : noneTagged s.outstanding = true) :
    (engineStep s).tcf = s.tcf := by
  obtain ⟨f, hf, e⟩ | ⟨f, rest, hf, hq, e⟩ | ⟨-, -, e⟩ := engineStep_cases s
  · have hlast : f.last = false := by simp_all [State.outstanding]
    simp [e, tcfAfter, hmode, hlast]
  · rw [e, State.startShift_tcf]
  · rw [e]

/-- Under TAGGED the wait for a tagged frame goes on until its FINISH, which empties the port and sets the flag (40 R113,
R115). -/
theorem awaiting_engineStep {s : State} {f : Frame} (hmode : s.params.tcfMode = .tagged) (hlast : f.last = true)
    (h : s.awaiting f = true) : (engineStep s).awaiting f = true := by
  obtain ⟨hset, hclear⟩ := (awaiting_iff s f).1 h
  cases hflag : s.tcf with
  | true =>
    obtain ⟨hq, hs, -, -⟩ := hset hflag
    simpa [engineStep, hq, hs] using h
  | false =>
    obtain ⟨hnewest, hfront⟩ := hclear hflag
    obtain ⟨g, hg, e⟩ | ⟨g, rest, hg, hq, e⟩ | ⟨-, -, e⟩ := engineStep_cases s
    · rw [e, awaiting_iff]
      cases hq : s.txq with
      | nil =>
        obtain rfl : g = f := by simpa [State.outstanding, hg, hq] using hnewest
        simp [tcfAfter, csAfter, hlast, hq]
      | cons q qs =>
        have hout : s.outstanding = g :: q :: qs := by simp [State.outstanding, hg, hq]
        rw [hout] at hnewest hfront
        obtain ⟨hguntagged, hfront⟩ : g.last = false ∧ noneTagged (q :: qs).dropLast = true := by simpa using hfront
        have htail : (s.finishShift g).outstanding = q :: qs := by simp [State.outstanding, hq]
        simp_all [tcfAfter]
    · have hout : (s.startShift g rest).outstanding = s.outstanding := by simp [State.outstanding, hg, hq]
      rw [e, awaiting_iff, hout]
      simp [hflag, hnewest, hfront]
    · rwa [e]

theorem taggedFrame_congr {s t : State} (i : Instr) (hc : t.tokCmd = s.tokCmd) (hd : t.tokData = s.tokData)
    (hp : t.pmem = s.pmem) : taggedFrame t i = taggedFrame s i := by
  have htok : ∀ sel, tokOf t sel = tokOf s sel := fun sel => by cases sel <;> simp [tokOf, hc, hd]
  cases i with
  | sendb sel frm v | sendw sel frm v => cases frm <;> simp [taggedFrame, htok]
  | fill | blit => simp [taggedFrame, hd, hp]
  | setwin | sessbeg | sessend | initln | halt => rfl

theorem stance_engineStep {s : State} {i : Instr} {o : Option Uop} (hmode : s.params.tcfMode = .tagged) (h : stance s i o) :
    stance (engineStep s) i o := by
  obtain ⟨hcmd, hdata, -, -⟩ := engineStep_lines s
  have htag := taggedFrame_congr i hcmd hdata (engineStep_sameMemories s).pmem
  have hwait : (∃ f, taggedFrame s i = some f ∧ s.awaiting f = true) →
      ∃ f, taggedFrame (engineStep s) i = some f ∧ (engineStep s).awaiting f = true := fun ⟨f, hf, hw⟩ =>
    ⟨f, htag.trans hf, awaiting_engineStep hmode (last_of_taggedFrame hf) hw⟩
  match o, h with
  | some (.submit _ _ true), ⟨hroom, hflag⟩ => exact ⟨roomy_engineStep hroom, (tcf_engineStep hmode hroom.2).trans hflag⟩
  | some .waitLe, h => exact noneTagged_engineStep h
  | some .waitEmpty, h | some .waitTcf, h => exact hwait h
  | none, h | some (.submit _ _ false), h | some .clearTcf, h | some .acquire, h | some .release, h | some (.setLines ..), h |
    some .stopRun, h => exact roomy_engineStep h

theorem handshakeOk_engineStep {s : State} (hmode : s.params.tcfMode = .tagged) (h : s.handshakeOk = true) :
    (engineStep s).handshakeOk = true := by
  obtain ⟨-, -, -, -, hcur, -⟩ := engineStep_control s
  cases hc : s.cur with
  | none => exact (handshakeOk_iff_roomy (hcur.trans hc)).2 (roomy_engineStep ((handshakeOk_iff_roomy hc).1 h))
  | some a =>
    rw [handshakeOk_iff_stance (hcur.trans hc), (engineStep_sameMemories s).params]
    exact stance_engineStep hmode ((handshakeOk_iff_stance hc).1 h)

/-! ### The other consumers and a restart -/

theorem handshakeOk_otherAcquire {s : State} (h : s.handshakeOk = true) : (otherAcquire s).handshakeOk = true := by
  obtain ⟨-, e⟩ | ⟨-, e⟩ := otherAcquire_cases s <;> rw [e] <;> exact h

/-- Outside a session no operation in progress uses the port, and the invariant asks for room (40 R117). -/
theorem handshakeOk_iff_roomy_of_owner {s : State} (hinv : s.Inv) (ho : s.owner ≠ .self) :
    s.handshakeOk = true ↔ s.roomy := by
  cases hc : s.cur with
  | none => exact handshakeOk_iff_roomy hc
  | some a =>
    obtain ⟨-, huop, -, hcheck⟩ := inProgress_of_inv hinv hc
    obtain ⟨u, hu⟩ := Option.ne_none_iff_exists'.1 huop
    have hf : u.isFraming = false := by
      by_contra hf
      exact ho (owner_of_staticCheck (busOperation_of_isFraming hu (by simpa using hf)) hcheck)
    rw [handshakeOk_iff_stance hc, hu, stance_of_not_framing hf]

theorem handshakeOk_otherRelease {s : State} (cfg : BusCfg) (tcf : Bool) (hinv : s.Inv) (h : s.handshakeOk = true) :
    (otherRelease cfg tcf s).handshakeOk = true := by
  obtain ⟨ho, e⟩ | ⟨ho, e⟩ := otherRelease_cases cfg tcf s
  · have hroom : s.roomy := (handshakeOk_iff_roomy_of_owner hinv (by simp [ho])).1 h
    have hinv' := inv_otherRelease cfg tcf hinv
    rw [e] at hinv' ⊢
    exact (handshakeOk_iff_roomy_of_owner hinv' nofun).2 hroom
  · rwa [e]

theorem handshakeOk_afterReset (other : Bool) (s : State) : (s.afterReset other).handshakeOk = true :=
  (handshakeOk_iff_roomy rfl).2 (roomy_of_port_empty rfl rfl)

theorem handshakeOk_useMove {s : State} (h : s.handshakeOk = true) : (useMove s).handshakeOk = true := by
  obtain ⟨ms, d, e⟩ := useMove_eq s
  rw [e]
  exact h

/-- Settles O43, agent by agent: each keeps what the micro-operation in progress asks of the port. -/
theorem handshakeIsKeptByEveryStep : Obligations.HandshakeIsKeptByEveryStep := by
  intro s t hw hmode hinv hs h
  obtain ⟨m, -, h⟩ | ⟨-, rfl⟩ := step_next h
  · have hu := handshakeOk_useMove hs
    have hmode : (useMove s).params.tcfMode = .tagged := by rw [useMove_params, hmode]
    cases m with
    | sequencer => exact handshakeOk_sequencerStep hu h
    | engine => cases h; exact handshakeOk_engineStep hmode hu
    | otherAcquire => cases h; exact handshakeOk_otherAcquire hu
    | otherRelease cfg tcf => cases h; exact handshakeOk_otherRelease cfg tcf (inv_useMove hinv) hu
    | reset other => cases h; exact handshakeOk_afterReset other _
    | launch other program pixels => cases h; exact handshakeOk_afterReset other _
  · exact hs

end Sys2Proof.Machine
end

section
/-! PROOFS. What the handshake invariant gives: no overflow, the barrier of LAST framing and its loss under EACH_FRAME (40 R110,
R115, R116). -/

namespace Sys2Proof.Machine

open Claims (atUop passed retires wordCount)

/-! ### The queue does not overflow -/

/-- At every SUBMIT there is room (40 R110). -/
theorem roomy_of_curUop_submit {s : State} {sel : LineSel} {src : Src} {last : Bool} (h : s.handshakeOk = true)
    (hu : s.curUop = some (.submit sel src last)) : s.roomy := by
  obtain ⟨a, ha, hu⟩ := curUop_eq_some.1 hu
  have hst := (handshakeOk_iff_stance ha).1 h
  rw [hu] at hst
  exact roomy_of_stance_submit hst

/-- Code 12 is QueueOverflow's (60 R201). -/
theorem eq_queueOverflow_of_raise {c : FaultCode} {s : State} (h : (s.raise c).fault = 12) : c = .queueOverflow := by
  rw [State.raise_fault] at h
  revert h
  cases c <;> decide

theorem decodeFault_ne_queueOverflow (e : DecodeError) : decodeFault e ≠ .queueOverflow := by
  cases e <;> nofun

/-- A static check raises no QueueOverflow (60 R201, R202). -/
theorem staticCheck_ne_queueOverflow (i : Instr) (s : State) : staticCheck i s ≠ some .queueOverflow := by
  cases i <;>
    simp only [staticCheck, checkSession, checkRun, checkBlit, checkSessbeg, checkSessend, checkInitln, checkHalt] <;>
    split_ifs <;> simp

/-- Where the invariant leaves room below the depth no micro-operation overflows the queue. -/
theorem perform_ne_queueOverflow {s : State} {i : Instr} {k : Nat} {u : Uop}
    (hw : s.params.fullThreshold < s.params.fifoDepth) (h : s.handshakeOk = true) (ha : atUop i k s)
    (hu : uopAt s.params i k = some u) : perform u s ≠ .raised .queueOverflow := by
  intro hp
  obtain ⟨-, ⟨sel, src, last, rfl, hfull, -⟩ | ⟨-, -, hc⟩ | ⟨-, -, hc⟩⟩ := perform_raised hp
  · obtain ⟨hle, -⟩ := roomy_of_curUop_submit h (curUop_eq_some.2 ⟨_, ha.2, hu⟩)
    exact absurd (hfull.trans hle) (Nat.not_le.2 hw)
  · cases hc
  · cases hc

theorem SequencerDid.fault_twelve {s t : State} (hd : SequencerDid s t) (hw : s.params.fullThreshold < s.params.fifoDepth)
    (h : s.handshakeOk = true) (ht : t.fault = 12) : s.fault = 12 := by
  cases hd with
  | idle | began | stopped => exact ht
  | rejected _ e => exact absurd (eq_queueOverflow_of_raise ht) (decodeFault_ne_queueOverflow e)
  | refused _ i c hc => exact absurd (eq_queueOverflow_of_raise ht ▸ hc) (staticCheck_ne_queueOverflow i s)
  | raised i k ha u hu c hp => exact absurd (eq_queueOverflow_of_raise ht ▸ hp) (perform_ne_queueOverflow hw h ha hu)
  | advanced i k _ u _ x hd | retired i k _ u _ x hd => exact hd.fault_eq.1.symm.trans ht

/-- Settles O44: only the sequencer raises faults, and QueueOverflow only at a SUBMIT, where there is room. -/
theorem queueNeverOverflows : Obligations.QueueNeverOverflows := by
  intro s hw hmode hinv h
  refine ⟨fun sel src last hu => (roomy_of_curUop_submit h hu).1, fun t hstep ht => ?_⟩
  obtain ⟨m, -, hm⟩ | ⟨-, rfl⟩ := step_next hstep
  · rw [← useMove_fault s]
    cases m with
    | sequencer =>
      exact (sequencerDid_of_next hm).fault_twelve (by rwa [useMove_params]) (handshakeOk_useMove h) ht
    | engine =>
      cases hm
      obtain ⟨-, hfault, -⟩ := engineStep_control (useMove s)
      exact hfault ▸ ht
    | otherAcquire =>
      cases hm
      obtain ⟨-, e⟩ | ⟨-, e⟩ := otherAcquire_cases (useMove s) <;> rwa [e] at ht
    | otherRelease cfg tcf =>
      cases hm
      obtain ⟨-, e⟩ | ⟨-, e⟩ := otherRelease_cases cfg tcf (useMove s) <;> rwa [e] at ht
    | reset | launch =>
      cases hm
      exact absurd ht (show (0 : BitVec 8) ≠ 12 by decide)
  · exact ht

/-! ### LAST framing -/

/-- WAIT_TCF is an operation's last micro-operation, so it is passed by retiring. -/
theorem passed_of_waitTcf {p : Params} {i : Instr} {k : Nat} (s : State) (hu : uopAt p i k = some .waitTcf) :
    passed i k s = retires (wordCount i) s := by
  have hk := expansionsHaveTheirLength p i k
  have hnext := expansionsHaveTheirLength p i (k + 1)
  cases uopPlace_of_uopAt hu with
  | waitTcf hn =>
    rw [hu] at hk
    rw [hn] at hnext
    exact if_pos (by simp at hk hnext; omega)
  | sole hf => cases hf

/-- Settles O45: WAIT_TCF passes with the flag set, and there the wait is over: the frame is on the wire, under the configuration
of the session the operation needs. -/
theorem lastFramingIsABarrier : Obligations.LastFramingIsABarrier := by
  intro s t i k hmode hinv hs ha hu h hdone
  have hst := (handshakeOk_iff_stance ha.2).1 hs
  rw [hu] at hst
  obtain ⟨f, hf, hwait⟩ := hst
  rw [exec_waitTcf ha hu] at h
  cases hflag : s.tcf with
  | false =>
    rw [if_neg (by simp [hflag])] at h
    cases h
    rw [ha.2] at hdone
    cases hdone
  | true =>
    obtain ⟨hq, hsh, hcs, hlast⟩ := ((awaiting_iff s f).1 hwait).1 hflag
    obtain ⟨-, -, -, hcheck⟩ := inProgress_of_inv hinv ha.2
    have ho : s.owner = .self := owner_of_staticCheck (busOperation_of_isFraming hu rfl) hcheck
    have hcfg : s.busCfg = s.params.sessionCfg := (((sessionOk_iff s).1 ((inv_iff s).1 hinv).1.session).1 ho).2
    rw [if_pos hflag, passed_of_waitTcf s hu] at h
    cases h
    exact ⟨⟨f, hf, last_of_taggedFrame hf, hcfg ▸ hlast⟩, hq, hsh, hcs, hflag⟩

/-- Settles O46: the engine's FINISH of the earlier frame sets the flag under EACH_FRAME and not under TAGGED, and WAIT_TCF asks
for nothing else. -/
theorem eachFrameBreaksTheBarrier : Obligations.EachFrameBreaksTheBarrier := by
  intro s sel v g f ha hflag hg hlast hq hm
  have hstep : step s = .next ((useMove s).finishShift g) := by
    rw [step_engine hm, engineStep, useMove_shifter, hg]
  have hat : atUop (.sendb sel .last v) 2 ((useMove s).finishShift g) := by simpa [atUop] using ha
  refine ⟨fun hmode => ⟨_, hstep, ?_, ?_, by simpa using hq⟩, fun hmode => ⟨_, hstep, ?_, ?_⟩⟩
  · simp [tcfAfter, hmode]
  · rw [exec_waitTcf hat rfl, if_pos (by simp [tcfAfter, hmode])]
    rfl
  · simp [tcfAfter, hmode, hlast, hflag]
  · rw [exec_waitTcf hat rfl, if_neg (by simp [tcfAfter, hmode, hlast, hflag])]

end Sys2Proof.Machine
end

section
/-! PROOFS. The engine's two steps, a busy port, and what lifts a hold (40 R100, R112 to R114, R119; 41 R135; 43 R169). -/

namespace Sys2Proof.Machine

open Claims (goesOnRunning)

/-- Settles O33: by what the engine finds in the shifter and at the head of the queue. -/
theorem engineStartsAndFinishes : Obligations.EngineStartsAndFinishes := by
  intro s hm
  rw [step_engine hm]
  refine ⟨fun f rest hs hq => ?_, fun f hs => ?_, fun hs hq => ?_⟩
  · simp [engineStep, hs, hq, State.startShift]
  · simp [engineStep, hs, State.finishShift, tcfAfter, csAfter]
  · simp [engineStep, hs, hq]

/-! ### A busy port -/

/-- While nothing tagged is outstanding the engine's step leaves chip select asserted where it finds anything to do (40 R114). -/
theorem quiescent_engineStep {s : State} (hp : s.portOk = true) (hb : s.quiescent = false)
    (hn : noneTagged s.outstanding = true) : (engineStep s).quiescent = false := by
  rw [← Bool.not_eq_true, quiescent_iff]
  obtain ⟨f, hf, e⟩ | ⟨f, rest, -, -, e⟩ | ⟨-, -, e⟩ := engineStep_cases s
  · have hcs : s.cs = true := (((portOk_iff s).1 hp).2).resolve_left (by simp [hf])
    have hlast : f.last = false := by simp_all [State.outstanding]
    simp [e, csAfter, hlast, hcs]
  · simp [e]
  · rw [e, ← quiescent_iff, hb]
    simp

theorem quiescent_eq_of_samePort {s t : State} (h : SamePort s t) (hcs : t.cs = s.cs) : t.quiescent = s.quiescent := by
  simp only [State.quiescent, State.portIdle, h.txq, h.shifter, hcs]

/-- The sequencer never quiets the port: it writes no chip select and takes no frame away. -/
theorem SequencerDid.quiescent_eq_false {s t : State} (hd : SequencerDid s t) (hb : s.quiescent = false) :
    t.quiescent = false := by
  obtain ⟨x, rfl | ⟨u, -, hdid⟩, ht⟩ := hd.performs
  · rw [quiescent_eq_of_samePort ht.samePort ht.cs, hb]
  · rw [quiescent_eq_of_samePort ht.samePort ht.cs]
    obtain hsame | ⟨sel, src, f, -, rfl⟩ := hdid.port
    · rw [quiescent_eq_of_samePort hsame hdid.flags.1, hb]
    · rw [← Bool.not_eq_true, quiescent_iff]
      simp

/-- Settles O49: of the agents only the engine could quiet the port. -/
theorem onlyATaggedFinishQuietsThePort : Obligations.OnlyATaggedFinishQuietsThePort := by
  intro s t hinv hb hn h hr
  have huse : (useMove s).quiescent = false := (quiescent_eq_of_samePort (samePort_useMove s) (useMove_cs s)).trans hb
  cases stepDid_of_next h hr with
  | nobody => exact hb
  | sequencer _ _ hd => exact hd.quiescent_eq_false huse
  | engine =>
    refine quiescent_engineStep ((inv_iff _).1 (inv_useMove hinv)).1.port huse ?_
    simpa [State.outstanding] using hn
  | otherAcquire =>
    obtain ⟨-, e⟩ | ⟨-, e⟩ := otherAcquire_cases (useMove s) <;> rw [e] <;> exact huse
  | otherRelease cfg tcf =>
    obtain ⟨-, e⟩ | ⟨-, e⟩ := otherRelease_cases cfg tcf (useMove s) <;> rw [e] <;> exact huse

/-! ### A hold -/

@[simp] theorem sequencerEnabled_useMove (s : State) : (useMove s).sequencerEnabled = s.sequencerEnabled := by
  obtain ⟨ms, d, h⟩ := useMove_eq s
  rw [h]
  rfl

@[simp] theorem engineEnabled_useMove (s : State) : (useMove s).engineEnabled = s.engineEnabled := by
  simp [State.engineEnabled]

theorem sequencerEnabled_of_curUop {s : State} {u : Uop} (hm : s.mode = .run) (hu : s.curUop = some u) :
    s.sequencerEnabled = !s.holds u := by
  simp [State.sequencerEnabled, hm, hu]

/-- Only the three waits of the port and ACQUIRE hold. -/
theorem isFraming_of_holds {s : State} {u : Uop} (h : s.holds u = true) (hne : u ≠ .acquire) : u.isFraming = true := by
  cases u with
  | waitLe | waitEmpty | waitTcf | submit | clearTcf => rfl
  | acquire => exact absurd rfl hne
  | release | setLines | stopRun => cases h

/-- An operation at a framing micro-operation runs in a session. -/
theorem owner_of_curUop {s : State} {u : Uop} (hinv : s.Inv) (hu : s.curUop = some u) (hf : u.isFraming = true) :
    s.owner = .self := by
  obtain ⟨a, ha, hu⟩ := curUop_eq_some.1 hu
  obtain ⟨-, -, -, hcheck⟩ := inProgress_of_inv hinv ha
  exact owner_of_staticCheck (busOperation_of_isFraming hu hf) hcheck

/-- In a session the other consumers have no step (43 R166, R167). -/
theorem step_in_session {s t : State} (ho : s.owner = .self) (h : step s = .next t) (hr : goesOnRunning s = true) :
    t = s ∨ t = useMove s ∨ (nextMove s = some .sequencer ∧ sequencerStep (useMove s) = .next t) ∨
      (nextMove s = some .engine ∧ t = engineStep (useMove s)) := by
  cases stepDid_of_next h hr with
  | nobody => exact .inl rfl
  | sequencer hm => exact .inr (.inr (.inl ⟨hm, by rwa [step_sequencer hm] at h⟩))
  | engine hm => exact .inr (.inr (.inr ⟨hm, rfl⟩))
  | otherAcquire =>
    obtain ⟨hfree, -⟩ | ⟨-, e⟩ := otherAcquire_cases (useMove s)
    · simp [ho] at hfree
    · exact .inr (.inl e)
  | otherRelease cfg tcf =>
    obtain ⟨hother, -⟩ | ⟨-, e⟩ := otherRelease_cases cfg tcf (useMove s)
    · simp [ho] at hother
    · exact .inr (.inl e)

section
variable {s t : State} (hm : s.mode = .run) (he : s.sequencerEnabled = false)
include hm he

/-- A holding sequencer is at a wait of the port, in a session, or at an ACQUIRE, whose bus is not free. -/
theorem hold_cases (hinv : s.Inv) :
    (∃ u, s.curUop = some u ∧ u ≠ .acquire ∧ u.isFraming = true ∧ s.holds u = true ∧ s.owner = .self) ∨
      (s.curUop = some .acquire ∧ s.owner ≠ .none) := by
  obtain ⟨a, u, hc, hu, hh⟩ := holds_of_not_enabled hm he
  have hcur : s.curUop = some u := curUop_eq_some.2 ⟨a, hc, hu⟩
  by_cases hne : u = .acquire
  · subst hne
    exact .inr ⟨hcur, (holds_acquire s).1 hh⟩
  · have hf := isFraming_of_holds hh hne
    exact .inl ⟨u, hcur, hne, hf, hh, owner_of_curUop hinv hcur hf⟩

/-- The sequencer's move at a hold changes the schedule alone (log 14). -/
theorem sequencerStep_useMove_held (h : sequencerStep (useMove s) = .next t) : t = useMove s := by
  rw [sequencerStep_held (by simpa using hm) (by simpa using he)] at h
  cases h
  rfl

/-- At a wait of the port every step but the engine's changes the schedule at most. -/
theorem step_at_port_hold (hinv : s.Inv) (hu : s.curUop ≠ some .acquire) (h : step s = .next t)
    (hr : goesOnRunning s = true) :
    t = s ∨ t = useMove s ∨ (nextMove s = some .engine ∧ t = engineStep (useMove s)) := by
  obtain ⟨u, -, -, -, -, ho⟩ | ⟨hacq, -⟩ := hold_cases hm he hinv
  · obtain e | e | ⟨-, hseq⟩ | heng := step_in_session ho h hr
    · exact .inl e
    · exact .inr (.inl e)
    · exact .inr (.inl (sequencerStep_useMove_held hm he hseq))
    · exact .inr (.inr heng)
  · exact absurd hacq hu

/-- At an ACQUIRE that holds every step but another consumer's release changes the schedule, or is the engine's. -/
theorem step_at_acquire_hold (ho : s.owner ≠ .none) (hne : ∀ cfg tcf, nextMove s ≠ some (.otherRelease cfg tcf))
    (h : step s = .next t) (hr : goesOnRunning s = true) :
    t = s ∨ t = useMove s ∨ t = engineStep (useMove s) := by
  cases stepDid_of_next h hr with
  | nobody => exact .inl rfl
  | sequencer hs => exact .inr (.inl (sequencerStep_useMove_held hm he (by rwa [step_sequencer hs] at h)))
  | engine => exact .inr (.inr rfl)
  | otherAcquire =>
    obtain ⟨hfree, -⟩ | ⟨-, e⟩ := otherAcquire_cases (useMove s)
    · exact absurd (by simpa using hfree) ho
    · exact .inr (.inl e)
  | otherRelease cfg tcf hs => exact absurd hs (hne cfg tcf)

/-- With the sequencer's move repeated a hold is repeated (log 8, 14). -/
theorem step_repeated_hold (hsched : s.schedule = []) (hpol : s.policy = .repeated [.sequencer]) :
    nextMove s = some .sequencer ∧ step s = .next s := by
  obtain ⟨hmove, huse⟩ := nextMove_repeated hsched hpol
  have hsame : useMove s = s := by rw [huse, ← hsched]; rfl
  exact ⟨hmove, by rw [step_sequencer hmove, hsame, sequencerStep_held hm he]⟩

end

@[simp] theorem curUop_engineStep (s : State) : (engineStep s).curUop = s.curUop := by
  obtain ⟨-, -, -, -, hcur, -⟩ := engineStep_control s
  simp only [State.curUop, hcur, (engineStep_sameMemories s).params]

/-- Settles O51: the steps at a hold change nothing it depends on, and the sequencer's own move repeats it. -/
theorem onlyAnotherAgentLiftsAHold : Obligations.OnlyAnotherAgentLiftsAHold := by
  refine ⟨fun s t hinv hm he h hr => ⟨fun hu hne => ?_, fun hu hne => ?_⟩, fun s hm he hsched hpol => ?_⟩
  · obtain rfl | rfl | ⟨heng, -⟩ := step_at_port_hold hm he hinv hu h hr
    · exact ⟨rfl, he⟩
    · simp [he]
    · exact absurd heng hne
  · obtain ⟨u, hcur, hua, -⟩ | ⟨-, ho⟩ := hold_cases hm he hinv
    · exact absurd (Option.some.inj (hcur.symm.trans hu)) hua
    · obtain rfl | rfl | rfl := step_at_acquire_hold hm he ho hne h hr
      · exact ⟨rfl, he⟩
      · simp [he]
      · obtain ⟨hmode, -, -, -, hcur, howner⟩ := engineStep_control (useMove s)
        refine ⟨hcur.trans (useMove_cur s), ?_⟩
        rw [sequencerEnabled_of_curUop (u := .acquire) (by simp [hmode, hm]) (by simp [hu])]
        simpa [holds_acquire, howner] using ho
  · obtain ⟨hmove, hstep⟩ := step_repeated_hold hm he hsched hpol
    refine ⟨⟨fun _ => hstep, fun n => ⟨n, le_rfl, .inl he⟩⟩, fun n m hm' => ?_, fun heng hfair => ?_, fun hu hrel => ?_⟩
    · cases hmove.symm.trans hm'
      rfl
    · obtain ⟨m, -, hoff | hmove'⟩ := hfair 0
      · rw [heng] at hoff
        cases hoff
      · cases hmove.symm.trans hmove'
    · obtain ⟨m, -, hfree, -⟩ := hrel.2 0 hu
      rw [sequencerEnabled_of_curUop hm hu] at he
      exact (holds_acquire s).1 (by simpa using he) hfree

end Sys2Proof.Machine
end

section
/-! PROOFS. Progress under the fairness premises (40 R119; 70 R240): every wait of the port ends, and every proper run does. -/

namespace Sys2Proof.Machine

open Claims (atUop uopCount goesOnRunning)

/-! ### Sound states and their runs -/

/-- The premises that every step keeps: well-formed parameters, TAGGED, and both invariants. -/
structure Sound (s : State) : Prop where
  wf : s.params.wf = true
  tagged : s.params.tcfMode = .tagged
  inv : s.Inv
  handshake : s.handshakeOk = true

theorem Sound.step {s t : State} (h : Sound s) (hs : step s = .next t) : Sound t := by
  obtain ⟨hparams, -⟩ := memoriesAreNeverWritten.1 s t hs
  exact ⟨hparams ▸ h.wf, hparams ▸ h.tagged, invIsKeptByEveryStep s t h.wf h.inv hs,
    handshakeIsKeptByEveryStep s t h.wf h.tagged h.inv h.handshake hs⟩

theorem Sound.run {r : Nat → State} (hr : IsRun r) {n m : Nat} (hnm : n ≤ m) (h : Sound (r n)) : Sound (r m) := by
  induction m, hnm using Nat.le_induction with
  | base => exact h
  | succ m _ ih => exact ih.step (hr m)

theorem goesOnRunning_of_noRestart {r : Nat → State} (h : NoRestart r) (n : Nat) : goesOnRunning (r n) = true := by
  unfold goesOnRunning
  split
  · next m hm => rw [h n m hm]; rfl
  · rfl

/-- What holds at `n` holds until `Q` does, or still at `m`. -/
theorem holds_until {P Q : Nat → Prop} {n m : Nat} (hnm : n ≤ m) (hP : P n) (hstep : ∀ j, P j → Q j ∨ P (j + 1)) :
    (∃ j, n ≤ j ∧ Q j) ∨ P m := by
  induction m, hnm using Nat.le_induction with
  | base => exact .inr hP
  | succ m hm ih =>
    obtain hQ | hPm := ih
    · exact .inl hQ
    · exact (hstep m hPm).imp_left fun hQ => ⟨m, hm, hQ⟩

/-! ### The engine ends a wait of the port -/

/-- What is left for the engine: a START and a FINISH for each queued frame, a FINISH for the one shifting. -/
def State.portWork (s : State) : Nat := 2 * s.txq.length + s.shifter.toList.length

@[simp] theorem portWork_useMove (s : State) : (useMove s).portWork = s.portWork := by
  simp [State.portWork]

theorem portWork_engineStep {s : State} (h : s.engineEnabled = true) : (engineStep s).portWork + 1 = s.portWork := by
  obtain ⟨f, hf, e⟩ | ⟨f, rest, hf, hq, e⟩ | ⟨hf, hq, -⟩ := engineStep_cases s
  · simp [State.portWork, e, hf]
  · simp [State.portWork, e, hf, hq]
    omega
  · exact absurd ((engineEnabled_iff s).1 h) (by simp [hf, hq])

/-- While a wait of the port holds the engine has a step (40 R119). -/
theorem engineEnabled_of_hold {s : State} (h : Sound s) (hm : s.mode = .run) (he : s.sequencerEnabled = false)
    (hu : s.curUop ≠ some .acquire) : s.engineEnabled = true := by
  rw [engineEnabled_iff]
  obtain ⟨u, hcur, -, hf, hh, -⟩ | ⟨hacq, -⟩ := hold_cases hm he h.inv
  · cases u with
    | waitLe =>
      refine .inr fun hq => ?_
      rw [holds_waitLe, hq] at hh
      exact absurd hh (Nat.not_lt_zero _)
    | waitEmpty => exact .inr ((holds_waitEmpty s).1 hh)
    | waitTcf =>
      obtain ⟨a, ha, hua⟩ := curUop_eq_some.1 hcur
      have hst := (handshakeOk_iff_stance ha).1 h.handshake
      rw [hua] at hst
      obtain ⟨f, -, hwait⟩ := hst
      obtain ⟨hnewest, -⟩ := ((awaiting_iff s f).1 hwait).2 ((holds_waitTcf s).1 hh)
      by_contra hempty
      obtain ⟨hs, hq⟩ : s.shifter = none ∧ s.txq = [] := by simpa using hempty
      simp [State.outstanding, hs, hq] at hnewest
    | submit | clearTcf => cases hh
    | acquire | release | setLines | stopRun => cases hf
  · exact absurd hacq hu

/-- The place of the sequencer is the same in two states. -/
structure SamePlace (s t : State) : Prop where
  mode : t.mode = s.mode
  cur : t.cur = s.cur
  dp : t.dp = s.dp
  params : t.params = s.params

theorem SamePlace.refl (s : State) : SamePlace s s := ⟨rfl, rfl, rfl, rfl⟩

theorem SamePlace.trans {s t u : State} (h : SamePlace s t) (h' : SamePlace t u) : SamePlace s u :=
  ⟨h'.mode.trans h.mode, h'.cur.trans h.cur, h'.dp.trans h.dp, h'.params.trans h.params⟩

theorem SamePlace.curUop {s t : State} (h : SamePlace s t) : t.curUop = s.curUop := by
  simp only [State.curUop, h.cur, h.params]

theorem samePlace_useMove (s : State) : SamePlace s (useMove s) :=
  ⟨useMove_mode s, useMove_cur s, useMove_dp s, useMove_params s⟩

theorem samePlace_engineStep (s : State) : SamePlace s (engineStep s) := by
  obtain ⟨hmode, -, -, hdp, hcur, -⟩ := engineStep_control s
  exact ⟨hmode, hcur, hdp, (engineStep_sameMemories s).params⟩

/-- Only the sequencer moves on from its place. -/
theorem StepDid.samePlace {s t : State} (h : StepDid s t) (hns : nextMove s ≠ some .sequencer) : SamePlace s t := by
  cases h with
  | nobody => exact .refl s
  | sequencer hm => exact absurd hm hns
  | engine => exact (samePlace_useMove s).trans (samePlace_engineStep _)
  | otherAcquire =>
    refine (samePlace_useMove s).trans ?_
    obtain ⟨-, e⟩ | ⟨-, e⟩ := otherAcquire_cases (useMove s) <;> rw [e] <;> exact ⟨rfl, rfl, rfl, rfl⟩
  | otherRelease cfg tcf =>
    refine (samePlace_useMove s).trans ?_
    obtain ⟨-, e⟩ | ⟨-, e⟩ := otherRelease_cases cfg tcf (useMove s) <;> rw [e] <;> exact ⟨rfl, rfl, rfl, rfl⟩

/-- A later state of the same hold, before the engine's next step. -/
structure SameHold (s t : State) : Prop where
  sound : Sound t
  place : SamePlace s t
  held : t.sequencerEnabled = false
  work : t.portWork = s.portWork

theorem SameHold.useMove {s t : State} (h : SameHold s t) (hs : Sound (useMove t)) : SameHold s (useMove t) :=
  ⟨hs, h.place.trans (samePlace_useMove t), by simpa using h.held, by simpa using h.work⟩

/-- At a wait of the port every step is the engine's or leaves the hold as it is. -/
theorem SameHold.step {s t t' : State} (h : SameHold s t) (hm : s.mode = .run) (hu : s.curUop ≠ some .acquire)
    (hs : Machine.step t = .next t') (hr : goesOnRunning t = true) :
    (SameHold s t ∧ nextMove t = some .engine) ∨ SameHold s t' := by
  have hs' := h.sound.step hs
  obtain rfl | rfl | ⟨heng, -⟩ :=
    step_at_port_hold (h.place.mode.trans hm) h.held h.sound.inv (h.place.curUop ▸ hu) hs hr
  · exact .inr h
  · exact .inr (h.useMove hs')
  · exact .inl ⟨h, heng⟩

section
variable {r : Nat → State} (hrun : IsRun r) (hgo : NoRestart r)
include hrun hgo

/-- Under EngineFair a wait of the port that holds comes to an engine step, which leaves less work and the same place. -/
theorem engine_moves_at_hold (hfair : EngineFair r) {n : Nat} (h : Sound (r n)) (hm : (r n).mode = .run)
    (he : (r n).sequencerEnabled = false) (hu : (r n).curUop ≠ some .acquire) :
    ∃ j, n ≤ j ∧ SamePlace (r n) (r (j + 1)) ∧ (r (j + 1)).portWork < (r n).portWork := by
  have henabled : ∀ {j}, SameHold (r n) (r j) → (r j).engineEnabled = true := fun hj =>
    engineEnabled_of_hold hj.sound (hj.place.mode.trans hm) hj.held (hj.place.curUop ▸ hu)
  have hengine : ∃ j, n ≤ j ∧ SameHold (r n) (r j) ∧ nextMove (r j) = some .engine := by
    obtain ⟨m, hnm, hfair⟩ := hfair n
    obtain hQ | hPm := holds_until (P := fun j => SameHold (r n) (r j)) hnm ⟨h, .refl _, he, rfl⟩
      fun j hj => hj.step hm hu (hrun j) (goesOnRunning_of_noRestart hgo j)
    · exact hQ
    · obtain hoff | heng := hfair
      · rw [henabled hPm] at hoff
        cases hoff
      · exact ⟨m, hnm, hPm, heng⟩
  obtain ⟨j, hnj, hj, heng⟩ := hengine
  have e : engineStep (useMove (r j)) = r (j + 1) := by
    have hnext := hrun j
    rw [step_engine heng] at hnext
    injection hnext
  have hwork := portWork_engineStep (s := useMove (r j)) (by simpa using henabled hj)
  have hplace := hj.place.trans ((samePlace_useMove _).trans (samePlace_engineStep _))
  rw [portWork_useMove, hj.work, e] at hwork
  rw [e] at hplace
  exact ⟨j, hnj, hplace, by omega⟩

/-- Under EngineFair a wait of the port passes in a later state of the same place (40 R119). -/
theorem port_wait_ends (hfair : EngineFair r) {n : Nat} (h : Sound (r n)) (hm : (r n).mode = .run)
    (hu : (r n).curUop ≠ some .acquire) : ∃ m, n ≤ m ∧ SamePlace (r n) (r m) ∧ (r m).sequencerEnabled = true := by
  induction hw : (r n).portWork using Nat.strong_induction_on generalizing n with
  | _ w ih =>
    by_cases he : (r n).sequencerEnabled = true
    · exact ⟨n, le_rfl, .refl _, he⟩
    · obtain ⟨j, hnj, hp, hless⟩ := engine_moves_at_hold hrun hgo hfair h hm (by simpa using he) hu
      obtain ⟨m, hjm, hp', he'⟩ := ih _ (hw ▸ hless) (h.run hrun (by omega)) (hp.mode.trans hm) (hp.curUop ▸ hu) rfl
      exact ⟨m, by omega, hp.trans hp', he'⟩

end

/-! ### The sequencer goes on -/

theorem mode_of_enabled {s : State} (h : s.sequencerEnabled = true) : s.mode = .run := by
  simp only [State.sequencerEnabled, Bool.and_eq_true, decide_eq_true_eq] at h
  exact h.1

/-- The engine lifts holds and makes none. -/
theorem holds_engineStep {s : State} {u : Uop} (h : s.holds u = false) : (engineStep s).holds u = false := by
  rw [← Bool.not_eq_true] at h ⊢
  cases u with
  | waitLe =>
    rw [holds_waitLe] at h ⊢
    have hle := level_engineStep_le s
    rw [(engineStep_sameMemories s).params]
    omega
  | waitEmpty =>
    rw [holds_waitEmpty, not_not] at h ⊢
    have hle := level_engineStep_le s
    rw [h] at hle
    exact List.eq_nil_of_length_eq_zero (Nat.le_zero.1 hle)
  | waitTcf =>
    rw [holds_waitTcf, Bool.not_eq_false] at h ⊢
    obtain ⟨f, -, e⟩ | ⟨f, rest, -, -, e⟩ | ⟨-, -, e⟩ := engineStep_cases s <;> rw [e]
    · exact (tcfAfter_eq_true _ _ _).2 (.inr h)
    · exact h
    · exact h
  | acquire =>
    obtain ⟨-, -, -, -, -, howner⟩ := engineStep_control s
    rwa [holds_acquire, howner, ← holds_acquire]
  | submit | clearTcf | release | setLines | stopRun => simp [State.holds]

/-- An enabled sequencer away from ACQUIRE stays enabled while the others move. -/
theorem sequencerEnabled_stays {s t : State} (hinv : s.Inv) (he : s.sequencerEnabled = true) (hu : s.curUop ≠ some .acquire)
    (hns : nextMove s ≠ some .sequencer) (h : step s = .next t) (hr : goesOnRunning s = true) : t.sequencerEnabled = true := by
  have hp := (stepDid_of_next h hr).samePlace hns
  have hm := mode_of_enabled he
  have htm := hp.mode.trans hm
  cases hc : s.curUop with
  | none => simp [State.sequencerEnabled, htm, hp.curUop, hc]
  | some u =>
    rw [sequencerEnabled_of_curUop htm (hp.curUop.trans hc)]
    by_cases hf : u.isFraming = true
    · obtain rfl | rfl | ⟨hseq, -⟩ | ⟨-, rfl⟩ := step_in_session (owner_of_curUop hinv hc hf) h hr
      · rwa [← sequencerEnabled_of_curUop hm hc]
      · rwa [← sequencerEnabled_of_curUop htm (by simpa using hc), sequencerEnabled_useMove]
      · exact absurd hseq hns
      · rw [holds_engineStep]
        · rfl
        · rw [← sequencerEnabled_useMove, sequencerEnabled_of_curUop (u := u) (by simpa using hm) (by simpa using hc)] at he
          simpa using he
    · cases u with
      | acquire => exact absurd hc hu
      | release | setLines | stopRun => rfl
      | submit | waitLe | clearTcf | waitEmpty | waitTcf => exact absurd rfl hf

section
variable {r : Nat → State} (hrun : IsRun r) (hgo : NoRestart r)
include hrun hgo

theorem samePlace_next {n j : Nat} (hp : SamePlace (r n) (r j)) (hns : nextMove (r j) ≠ some .sequencer) :
    SamePlace (r n) (r (j + 1)) :=
  hp.trans ((stepDid_of_next (hrun j) (goesOnRunning_of_noRestart hgo j)).samePlace hns)

/-- An enabled sequencer away from ACQUIRE comes to its move. -/
theorem enabled_sequencer_moves (hprog : SequencerProgress r) {n : Nat} (h : Sound (r n)) (he : (r n).sequencerEnabled = true)
    (hu : (r n).curUop ≠ some .acquire) :
    ∃ m, n ≤ m ∧ (SamePlace (r n) (r m) ∧ (r m).sequencerEnabled = true) ∧ nextMove (r m) = some .sequencer := by
  obtain ⟨m, hnm, hprog⟩ := hprog n
  refine (holds_until (P := fun j => n ≤ j ∧ SamePlace (r n) (r j) ∧ (r j).sequencerEnabled = true)
    hnm ⟨le_rfl, .refl _, he⟩ ?_).elim id ?_
  · rintro j ⟨hnj, hp, hj⟩
    by_cases hseq : nextMove (r j) = some .sequencer
    · exact .inl ⟨⟨hp, hj⟩, hseq⟩
    · exact .inr ⟨by omega, samePlace_next hrun hgo hp hseq,
        sequencerEnabled_stays (h.run hrun hnj).inv hj (hp.curUop ▸ hu) hseq (hrun j) (goesOnRunning_of_noRestart hgo j)⟩
  · rintro ⟨-, hp, hem⟩
    obtain hoff | hseq := hprog
    · rw [hem] at hoff
      cases hoff
    · exact ⟨m, hnm, ⟨hp, hem⟩, hseq⟩

/-- Under OthersRelease a waiting ACQUIRE comes to a move of the sequencer that finds the bus free. -/
theorem acquire_moves (hrel : OthersRelease r) {n : Nat} (hm : (r n).mode = .run) (hu : (r n).curUop = some .acquire) :
    ∃ m, n ≤ m ∧ (SamePlace (r n) (r m) ∧ (r m).sequencerEnabled = true) ∧ nextMove (r m) = some .sequencer := by
  obtain ⟨m, hnm, hfree, hseq⟩ := hrel.2 n hu
  refine (holds_until (P := fun j => SamePlace (r n) (r j)) hnm (.refl _) ?_).elim id fun hp => ?_
  · intro j hp
    by_cases hseq : nextMove (r j) = some .sequencer
    · by_cases he : (r j).sequencerEnabled = true
      · exact .inl ⟨⟨hp, he⟩, hseq⟩
      · have hnext := hrun j
        rw [step_sequencer hseq] at hnext
        rw [sequencerStep_useMove_held (hp.mode.trans hm) (by simpa using he) hnext]
        exact .inr (hp.trans (samePlace_useMove _))
    · exact .inr (samePlace_next hrun hgo hp hseq)
  · have hfree' : (r m).holds .acquire = false := by simp [State.holds, hfree]
    refine ⟨m, hnm, ⟨hp, ?_⟩, hseq⟩
    rw [sequencerEnabled_of_curUop (hp.mode.trans hm) (hp.curUop.trans hu), hfree']
    rfl

/-- Under the three premises a running sequencer comes to its move from every place. -/
theorem sequencer_moves (hprog : SequencerProgress r) (hfair : EngineFair r) (hrel : OthersRelease r) {n : Nat}
    (h : Sound (r n)) (hm : (r n).mode = .run) :
    ∃ m, n ≤ m ∧ (SamePlace (r n) (r m) ∧ (r m).sequencerEnabled = true) ∧ nextMove (r m) = some .sequencer := by
  by_cases hu : (r n).curUop = some .acquire
  · exact acquire_moves hrun hgo hrel hm hu
  · obtain ⟨j, hnj, hp, he⟩ := port_wait_ends hrun hgo hfair h hm hu
    obtain ⟨m, hjm, ⟨hp', he'⟩, hseq⟩ := enabled_sequencer_moves hrun hgo hprog (h.run hrun hnj) he (hp.curUop ▸ hu)
    exact ⟨m, by omega, ⟨hp.trans hp', he'⟩, hseq⟩

end

/-! ### Every move of the sequencer is progress -/

theorem uopCount_lt (i : Instr) : uopCount i < 2 ^ 34 := by
  cases i with
  | sendb sel frm v | sendw sel frm v => cases frm <;> simp [uopCount]
  | fill color count | blit base count =>
    have := count.isLt
    simp only [uopCount]
    split <;> omega
  | setwin | sessbeg | sessend | initln | halt => simp [uopCount]

/-- The micro-operations left of the operation in progress; a bound on them where DECODE is to come. -/
def uopsLeft : Option Active → Nat
  | none => 2 ^ 34
  | some a => uopCount a.op - a.k

/-- What is left for the sequencer: the words of DMEM ahead, and the operation in progress. -/
def State.programWork (s : State) : Nat := 2 ^ 35 * (s.params.dmemWords - s.dp) + uopsLeft s.cur

theorem SamePlace.programWork {s t : State} (h : SamePlace s t) : t.programWork = s.programWork := by
  simp only [State.programWork, h.params, h.dp, h.cur]

theorem programWork_of_exec {i : Instr} {k : Nat} {s t : State} (hinv : s.Inv) (ha : atUop i k s)
    (he : s.sequencerEnabled = true) (h : exec i s = .next t) (ht : t.mode = .run) : t.programWork < s.programWork := by
  obtain ⟨-, -, hdp, -⟩ := inProgress_of_inv hinv ha.2
  change s.dp + i.words ≤ s.params.dmemWords at hdp
  rw [exec_exec i k s ha.1 ha.2] at h
  obtain ⟨u, hu, ⟨x, hp, hx⟩ | ⟨-, rfl⟩ | ⟨hh, -⟩ | ⟨c, -, rfl⟩⟩ := execStep_next h
  · have hk : k < uopCount i := (expansionsHaveTheirLength s.params i k).1 (by rw [hu]; rfl)
    obtain ⟨-, hxdp, hparams⟩ := (uopDid_of_perform hp).control
    obtain ⟨-, rfl⟩ | ⟨-, rfl⟩ := hx
    · simp only [State.programWork, State.advance_params, State.advance_dp, State.advance_cur, hparams, hxdp, ha.2, uopsLeft]
      omega
    · have hwords : 0 < i.words := i.op.words_pos
      simp only [State.programWork, State.retire_params, State.retire_dp, State.retire_cur, hparams, hxdp, ha.2, uopsLeft]
      omega
  · cases ht
  · rw [sequencerEnabled_of_curUop ha.1 (curUop_eq_some.2 ⟨_, ha.2, hu⟩), hh] at he
    cases he
  · cases ht

/-- An enabled step of the sequencer that keeps it running leaves less of the program. -/
theorem programWork_of_sequencerStep {s t : State} (hinv : s.Inv) (he : s.sequencerEnabled = true)
    (h : sequencerStep s = .next t) (ht : t.mode = .run) : t.programWork < s.programWork := by
  obtain ⟨hm, -⟩ | ⟨⟨i, k⟩, hm, hc, h⟩ | ⟨i, rest, hm, hc, -, h⟩ | ⟨e, -, -, -, rfl⟩ := sequencerStep_next h
  · exact absurd (mode_of_enabled he) hm
  · exact programWork_of_exec hinv ⟨hm, hc⟩ he h ht
  · rw [exec_decode i s hm hc] at h
    cases h
    cases hcheck : staticCheck i s with
    | none =>
      have := uopCount_lt i
      simp only [decodeStep, State.programWork, State.begin_params, State.begin_dp, State.begin_cur, hc, uopsLeft]
      omega
    | some c =>
      rw [hcheck] at ht
      cases ht
  · cases ht

/-- Settles O53: at a wait of the port the engine runs out of work; and a run that stayed in RUN for ever would have the sequencer
take ever less of the program. -/
theorem portWaitsEndUnderEngineFair : Obligations.PortWaitsEndUnderEngineFair := by
  refine ⟨fun r n hrun hgo hfair hw hmode hinv hs hu => ?_, fun r n hproper hgo hfair hrel hw hmode hinv hs => ?_⟩
  · have hm : (r n).mode = .run := by
      obtain hu | hu | hu := hu <;> obtain ⟨a, ha, -⟩ := curUop_eq_some.1 hu <;> exact (inProgress_of_inv hinv ha).1
    obtain ⟨m, hnm, hp, he⟩ := port_wait_ends hrun hgo hfair ⟨hw, hmode, hinv, hs⟩ hm
      (by obtain hu | hu | hu := hu <;> rw [hu] <;> nofun)
    exact ⟨m, hnm, hp.cur, he⟩
  · obtain ⟨hrun, hprog⟩ := hproper
    by_contra hnever
    have hmode' : ∀ m, n ≤ m → (r m).mode = .run := fun m hnm => by_contra fun h => hnever ⟨m, hnm, h⟩
    clear hnever
    have hsound : Sound (r n) := ⟨hw, hmode, hinv, hs⟩
    clear hw hmode hinv hs
    induction hwork : (r n).programWork using Nat.strong_induction_on generalizing n with
    | _ w ih =>
      obtain ⟨m, hnm, ⟨hp, he⟩, hseq⟩ := sequencer_moves hrun hgo hprog hfair hrel hsound (hmode' n le_rfl)
      have hnext := hrun m
      rw [step_sequencer hseq] at hnext
      have hless := programWork_of_sequencerStep (inv_useMove (hsound.run hrun hnm).inv) (by simpa using he) hnext
        (hmode' (m + 1) (by omega))
      rw [(samePlace_useMove (r m)).programWork, hp.programWork, hwork] at hless
      exact ih _ hless (n := m + 1) (fun j hj => hmode' j (by omega)) (hsound.run hrun (by omega)) rfl

end Sys2Proof.Machine
end

section
/-! PROOFS. A LAST-framed operation under the eager policy runs to its retirement, and its frames to the wire (40 R102, R103,
R115; 42 R140, R141, R144; log 9). -/

namespace Sys2Proof.Machine

open Claims (between atUop goesTo passed token uopCount wordCount runOperation busOperation lastFrames)

/-! ### The frames an operation submits -/

/-- The frame that micro-operation `k` submits, where it is a SUBMIT. -/
def frameAt (s : State) (i : Instr) (k : Nat) : Option Frame :=
  match uopAt s.params i k with
  | some (.submit sel src last) => (readSrc s src).map fun v => ⟨token s sel, v, last⟩
  | _ => none

/-- The frames that the micro-operations from `k` on submit, in order. -/
def framesFrom (s : State) (i : Instr) (k : Nat) : List Frame := (List.range' k (uopCount i - k)).filterMap (frameAt s i)

theorem framesFrom_of_lt (s : State) {i : Instr} {k : Nat} (h : k < uopCount i) :
    framesFrom s i k = (frameAt s i k).toList ++ framesFrom s i (k + 1) := by
  rw [framesFrom, show uopCount i - k = uopCount i - (k + 1) + 1 by omega, List.range'_succ, List.filterMap_cons]
  cases frameAt s i k <;> rfl

theorem framesFrom_end (s : State) {i : Instr} {k : Nat} (h : uopCount i ≤ k) : framesFrom s i k = [] := by
  rw [framesFrom, Nat.sub_eq_zero_of_le h, List.range'_zero, List.filterMap_nil]

theorem frameAt_submit {s : State} {i : Instr} {k : Nat} {sel : LineSel} {src : Src} {last : Bool} {v : Payload}
    (hu : uopAt s.params i k = some (.submit sel src last)) (hv : readSrc s src = some v) :
    frameAt s i k = some ⟨token s sel, v, last⟩ := by
  simp [frameAt, hu, hv]

/-- A pixel run submits its pixels, the last one tagged (42 R140, R141, R144). -/
theorem framesFrom_run {s : State} {i : Instr} {count : Nat} {pixel : Nat → Src} {value : Nat → Payload}
    (hu : uopAt s.params i = runUop count pixel) (hn : uopCount i = 2 * (count - 1) + 4) (hc : count ≠ 0)
    (hv : ∀ n, n < count → readSrc s (pixel n) = some (value n)) (d m : Nat) (hm : m + d = count - 1) :
    framesFrom s i (2 * m) =
      (List.range' m d).map (fun n => ⟨s.tokData, value n, false⟩) ++ [⟨s.tokData, value (count - 1), true⟩] := by
  induction d generalizing m with
  | zero =>
    obtain rfl : m = count - 1 := by omega
    have hlast : ∀ j, uopAt s.params i (2 * (count - 1) + j) = (unitL16 .data (pixel (count - 1)))[j]? := fun j => by
      rw [hu, runUop_lastUnit pixel j hc]
    have hframe := frameAt_submit (hlast 1) (hv (count - 1) (by omega))
    have hnone : ∀ j, j ≠ 1 → frameAt s i (2 * (count - 1) + j) = none := by
      intro j hj
      rw [frameAt, hlast j]
      match j with
      | 0 | 2 | 3 | _ + 4 => rfl
      | 1 => exact absurd rfl hj
    rw [framesFrom_of_lt s (by omega), framesFrom_of_lt s (by omega), framesFrom_of_lt s (by omega),
      framesFrom_of_lt s (by omega), framesFrom_end s (by omega), hframe, hnone 2 (by omega), hnone 3 (by omega)]
    have h0 := hnone 0 (by omega)
    rw [Nat.add_zero] at h0
    rw [h0]
    rfl
  | succ d ih =>
    have hframe := frameAt_submit (s := s) (i := i) (k := 2 * m) (by rw [hu, runUop_submit pixel (by omega)]) (hv m (by omega))
    have hnone : frameAt s i (2 * m + 1) = none := by simp [frameAt, hu, runUop_waitLe pixel (show m + 1 < count by omega)]
    rw [framesFrom_of_lt s (by omega), framesFrom_of_lt s (by omega), hframe, hnone, show 2 * m + 1 + 1 = 2 * (m + 1) by omega,
      ih (m + 1) (by omega), List.range'_succ]
    rfl

/-- From its first micro-operation on a LAST-framed operation submits the frames of its rule. -/
theorem framesFrom_zero {s : State} {i : Instr} {frames : List Frame} (hc : staticCheck i s = none)
    (h : lastFrames s i = some frames) : framesFrom s i 0 = frames := by
  cases i with
  | sendb sel frm v | sendw sel frm v =>
    cases frm with
    | cont => cases h
    | last => cases h; rfl
  | fill color count =>
    obtain ⟨-, hz⟩ := (checkRun_eq_none count s).1 hc
    have hz' : count.toNat ≠ 0 := (BitVec.toNat_pos_of_ne_zero hz).ne'
    cases h
    refine (framesFrom_run (i := .fill color count) (pixel := fun _ => .half color) (value := fun _ => .half color) rfl (if_neg hz)
      hz' (fun _ _ => rfl) (count.toNat - 1) 0 (by omega)).trans ?_
    rw [List.map_const', List.length_range']
  | blit base count =>
    obtain ⟨⟨-, hz⟩, hsize⟩ := (checkBlit_eq_none base count s).1 hc
    have hz' : count.toNat ≠ 0 := (BitVec.toNat_pos_of_ne_zero hz).ne'
    have hread : ∀ n, n < count.toNat →
        readSrc s (.pmem (base.toNat + n)) = some (.half (s.pmem.read (base.toNat + n))) := fun n hn => by
      simp [readSrc, readPmem, show base.toNat + n < s.params.pmemSize by omega]
    cases h
    refine (framesFrom_run (i := .blit base count) (pixel := fun n => .pmem (base.toNat + n)) rfl (if_neg hz) hz' hread
      (count.toNat - 1) 0 (by omega)).trans ?_
    rw [List.range_eq_range']
  | setwin | sessbeg | sessend | initln | halt => cases h

/-- A LAST-framed operation ends with WAIT_TCF (40 R101). -/
theorem waitTcf_of_lastFrames {s : State} {i : Instr} {frames : List Frame} (hc : staticCheck i s = none)
    (h : lastFrames s i = some frames) {k : Nat} (hk : k + 1 = uopCount i) : uopAt s.params i k = some .waitTcf := by
  cases i with
  | sendb sel frm v | sendw sel frm v =>
    cases frm with
    | cont => cases h
    | last => cases hk; rfl
  | fill color count =>
    obtain ⟨-, hz⟩ := (checkRun_eq_none count s).1 hc
    have hz' : count.toNat ≠ 0 := (BitVec.toNat_pos_of_ne_zero hz).ne'
    obtain rfl : k = 2 * (count.toNat - 1) + 3 := by
      rw [uopCount, if_neg hz] at hk
      omega
    exact runUop_lastUnit (fun _ => .half color) 3 hz'
  | blit base count =>
    obtain ⟨⟨-, hz⟩, -⟩ := (checkBlit_eq_none base count s).1 hc
    have hz' : count.toNat ≠ 0 := (BitVec.toNat_pos_of_ne_zero hz).ne'
    obtain rfl : k = 2 * (count.toNat - 1) + 3 := by
      rw [uopCount, if_neg hz] at hk
      omega
    exact runUop_lastUnit (fun n => .pmem (base.toNat + n)) 3 hz'
  | setwin | sessbeg | sessend | initln | halt => cases h

theorem busOperation_of_lastFrames {s : State} {i : Instr} {frames : List Frame} (h : lastFrames s i = some frames) :
    busOperation i = true := by
  cases i with
  | sendb | sendw | setwin | fill | blit => rfl
  | sessbeg | sessend | initln | halt => cases h

/-! ### An enabled micro-operation is passed -/

theorem threshold_lt_of_wf {p : Params} (h : p.wf = true) : p.fullThreshold < p.fifoDepth := by
  simp only [Params.wf, Params.queueWf, Bool.and_eq_true, decide_eq_true_eq] at h
  omega

/-- What an enabled micro-operation `k` of a bus operation writes but for its place: the frame it submits, and the flag. -/
def afterUop (s : State) (i : Instr) (k : Nat) (flag : Bool) : State :=
  { s with
    txq := s.txq ++ (frameAt s i k).toList, tcf := flag,
    fromRun := s.fromRun ++ List.replicate (frameAt s i k).toList.length (runOperation i) }

theorem afterUop_of_frameAt_none {s : State} {i : Instr} {k : Nat} (h : frameAt s i k = none) (flag : Bool) :
    afterUop s i k flag = { s with tcf := flag } := by
  simp [afterUop, h]

/-- Under the invariants an enabled micro-operation of a bus operation is passed: it neither faults nor stops. -/
theorem exec_enabled {i : Instr} {k : Nat} {s : State} (h : Sound s) (ha : atUop i k s) (hi : busOperation i = true)
    (he : s.sequencerEnabled = true) : ∃ flag, exec i s = .next (passed i k (afterUop s i k flag)) := by
  obtain ⟨-, huop, -, hcheck⟩ := inProgress_of_inv h.inv ha.2
  obtain ⟨u, hu⟩ := Option.ne_none_iff_exists'.1 huop
  have hcur : s.curUop = some u := curUop_eq_some.2 ⟨_, ha.2, hu⟩
  have hh : ¬ s.holds u = true := by
    rw [sequencerEnabled_of_curUop ha.1 hcur] at he
    simpa using he
  have hframing := isFraming_of_busOperation hi hu
  change uopAt s.params i k = some u at hu
  cases u with
  | submit sel src last =>
    obtain ⟨v, hv⟩ := Option.ne_none_iff_exists'.1 (readSrc_ne_none hu hcheck)
    obtain ⟨hle, -⟩ := roomy_of_curUop_submit h.handshake hcur
    refine ⟨s.tcf, (exec_submit ha hu (hle.trans_lt (threshold_lt_of_wf h.wf)) hv).trans ?_⟩
    rw [afterUop, frameAt_submit hu hv]
    rfl
  | waitLe =>
    rw [holds_waitLe, Nat.not_lt] at hh
    refine ⟨s.tcf, (exec_waitLe ha hu).trans ?_⟩
    rw [if_pos hh, afterUop_of_frameAt_none (by simp [frameAt, hu])]
  | clearTcf =>
    refine ⟨false, (exec_clearTcf ha hu).trans ?_⟩
    rw [afterUop_of_frameAt_none (by simp [frameAt, hu])]
  | waitEmpty =>
    rw [holds_waitEmpty, not_not] at hh
    refine ⟨s.tcf, (exec_waitEmpty ha hu).trans ?_⟩
    rw [if_pos hh, afterUop_of_frameAt_none (by simp [frameAt, hu])]
  | waitTcf =>
    rw [holds_waitTcf, Bool.not_eq_false] at hh
    refine ⟨s.tcf, (exec_waitTcf ha hu).trans ?_⟩
    rw [if_pos hh, afterUop_of_frameAt_none (by simp [frameAt, hu])]
  | acquire | release | setLines | stopRun => cases hframing

/-! ### The eager policy -/

section
variable {s : State} (hsched : s.schedule = []) (hpol : s.policy = .eager)
include hsched hpol

/-- With nothing scheduled an enabled sequencer moves first (log 9). -/
theorem eager_sequencer (he : s.sequencerEnabled = true) : nextMove s = some .sequencer ∧ useMove s = s := by
  refine ⟨?_, ?_⟩
  · rw [nextMove_eager hsched hpol, eagerMove, if_pos he]
  · simp [useMove, usePolicy, hsched, hpol, he]

/-- With nothing scheduled an enabled engine moves while the sequencer has no step (log 9). -/
theorem step_eager_engine (he : s.sequencerEnabled = false) (hg : s.engineEnabled = true) : step s = .next (engineStep s) := by
  have hm : nextMove s = some .engine := by
    rw [nextMove_eager hsched hpol, eagerMove, if_neg (by simp [he]), if_pos hg]
  have huse : useMove s = s := by simp [useMove, usePolicy, hsched, hpol, hg]
  rw [step_engine hm, huse]

/-- With nothing scheduled an enabled operation in progress goes on. -/
theorem step_eager_exec {i : Instr} {k : Nat} (ha : atUop i k s) (he : s.sequencerEnabled = true) : step s = exec i s := by
  obtain ⟨hm, huse⟩ := eager_sequencer hsched hpol he
  obtain ⟨hexec, -⟩ := stepContinuesTheOperation s hm
  rw [hexec ⟨i, k⟩ ha.1 ha.2, huse]

theorem step_eager_begins {i : Instr} {rest : List Word} (hb : between s) (hd : decode (fetchWords s) = .ok i rest)
    (hc : staticCheck i s = none) : step s = .next (goesTo i 0 s) := by
  obtain ⟨hm, huse⟩ := eager_sequencer hsched hpol (by simp [State.sequencerEnabled, State.curUop, hb.1, hb.2])
  rw [step_of_decode_ok hm hb hd, huse, exec_begins hb hc]

end

/-! ### Draining -/

/-- `s` with the place and the port of `t`. -/
def withPort (s t : State) : State :=
  { s with
    cur := t.cur, txq := t.txq, shifter := t.shifter, tcf := t.tcf, cs := t.cs, wire := t.wire, fromRun := t.fromRun }

theorem withPort_trans {s t u : State} (h : withPort s t = t) (h' : withPort t u = u) : withPort s u = u :=
  calc withPort s u = withPort (withPort s t) u := rfl
    _ = u := by rw [h, h']

theorem withPort_engineStep (s : State) : withPort s (engineStep s) = engineStep s := by
  obtain ⟨f, -, e⟩ | ⟨f, rest, -, -, e⟩ | ⟨-, -, e⟩ := engineStep_cases s <;> rw [e] <;> rfl

theorem frameAt_withPort (s t : State) (i : Instr) (k : Nat) : frameAt (withPort s t) i k = frameAt s i k := rfl

/-- The state after the operation `i` with its `frames` has drained to the wire. -/
def drained (s : State) (i : Instr) (frames : List Frame) : State :=
  { s with
    dp := s.dp + wordCount i, txq := [], shifter := none, tcf := true, cs := false,
    wire := s.wire ++ (s.outstanding ++ frames).map fun f => ⟨f, s.busCfg⟩,
    fromRun := s.fromRun ++ List.replicate frames.length (runOperation i) }

/-- `t` is on the way from `s` to the end of operation `i`, at micro-operation `k`: it has submitted the frames `sent`, and since `s`
the frames `gone` have finished. -/
structure Draining (s : State) (i : Instr) (k : Nat) (sent gone : List Frame) (t : State) : Prop where
  sound : Sound t
  place : atUop i k t
  rest : withPort s t = t
  wire : t.wire = s.wire ++ gone.map fun f => ⟨f, s.busCfg⟩
  way : gone ++ t.outstanding = s.outstanding ++ sent
  notes : t.fromRun = s.fromRun ++ List.replicate sent.length (runOperation i)

section
variable {s t : State} {i : Instr} {k : Nat} {sent gone : List Frame} (h : Draining s i k sent gone t)
include h

theorem Draining.schedule_eq : t.schedule = s.schedule := by rw [← h.rest]; rfl

theorem Draining.policy_eq : t.policy = s.policy := by rw [← h.rest]; rfl

theorem Draining.busCfg_eq : t.busCfg = s.busCfg := by rw [← h.rest]; rfl

theorem Draining.params_eq : t.params = s.params := by rw [← h.rest]; rfl

theorem Draining.frameAt_eq (k : Nat) : frameAt t i k = frameAt s i k := by rw [← h.rest]; exact frameAt_withPort s t i k

/-- The engine moves frames on. -/
theorem Draining.after_engineStep (hs : step t = .next (engineStep t)) : ∃ gone', Draining s i k sent gone' (engineStep t) := by
  have hsound := h.sound.step hs
  have hplace := samePlace_engineStep t
  have hat : atUop i k (engineStep t) := ⟨hplace.mode.trans h.place.1, hplace.cur.trans h.place.2⟩
  have hrest := withPort_trans h.rest (withPort_engineStep t)
  have hnotes : (engineStep t).fromRun = t.fromRun := (submitted_engineStep t).2
  obtain ⟨f, hf, e⟩ | ⟨f, rest, hf, hq, e⟩ | ⟨-, -, e⟩ := engineStep_cases t
  · refine ⟨gone ++ [f], hsound, hat, hrest, ?_, ?_, hnotes.trans h.notes⟩
    · simp [e, h.wire, h.busCfg_eq]
    · rw [← h.way]
      simp [e, State.outstanding, hf]
  · refine ⟨gone, hsound, hat, hrest, ?_, ?_, hnotes.trans h.notes⟩
    · simp [e, h.wire]
    · rw [← h.way]
      simp [e, State.outstanding, hf, hq]
  · rw [e]
    exact ⟨gone, h⟩

/-- An enabled micro-operation that is not the last one is passed. -/
theorem Draining.after_exec (hi : busOperation i = true) (he : t.sequencerEnabled = true) (hk : k + 1 < uopCount i)
    (hstep : step t = exec i t) :
    ∃ t', step t = .next t' ∧ Draining s i (k + 1) (sent ++ (frameAt s i k).toList) gone t' ∧
      t'.portWork ≤ t.portWork + 2 := by
  obtain ⟨flag, hexec⟩ := exec_enabled h.sound h.place hi he
  rw [passed, if_neg (by omega), ← hstep] at hexec
  refine ⟨_, hexec, ⟨h.sound.step hexec, ⟨h.place.1, rfl⟩, withPort_trans h.rest rfl, h.wire, ?_, ?_⟩, ?_⟩
  · rw [← List.append_assoc, ← h.way, ← h.frameAt_eq]
    simp [State.outstanding, goesTo, afterUop]
  · simp only [goesTo, afterUop, h.notes, h.frameAt_eq, List.length_append, List.replicate_add, List.append_assoc]
  · have hlen : (frameAt t i k).toList.length ≤ 1 := by cases frameAt t i k <;> simp
    simp only [State.portWork, goesTo, afterUop, List.length_append]
    omega

/-- The last micro-operation, WAIT_TCF, is passed with everything on the wire (40 R115). -/
theorem Draining.exec_last (hu : uopAt s.params i k = some .waitTcf) (he : t.sequencerEnabled = true) (hc : s.cur = none) :
    exec i t = .next (drained s i sent) := by
  have hut : uopAt t.params i k = some .waitTcf := by rw [h.params_eq, hu]
  have hflag : t.tcf = true := by
    rw [sequencerEnabled_of_curUop h.place.1 (curUop_eq_some.2 ⟨_, h.place.2, hut⟩)] at he
    simpa [State.holds] using he
  have hst := (handshakeOk_iff_stance h.place.2).1 h.sound.handshake
  rw [hut] at hst
  obtain ⟨f, -, hwait⟩ := hst
  obtain ⟨hq, hsh, hcs, -⟩ := ((awaiting_iff t f).1 hwait).1 hflag
  have hgone : gone = s.outstanding ++ sent := by simpa [State.outstanding, hq, hsh] using h.way
  rw [exec_waitTcf h.place hut, if_pos hflag, passed_of_waitTcf t hut]
  calc Host.Outcome.next (Claims.retires (wordCount i) t)
      = .next (Claims.retires (wordCount i) (withPort s t)) := by rw [h.rest]
    _ = .next (drained s i sent) := by
      simp [Claims.retires, withPort, drained, hq, hsh, hflag, hcs, h.wire, h.notes, hgone, hc]

end

theorem run_succ {s t : State} (h : step s = .next t) (n : Nat) :
    Host.Core.run Sys2Proof.core (n + 1) s = Host.Core.run Sys2Proof.core n t := by
  have h' : Sys2Proof.core.step s = .next t := h
  simp only [Host.Core.run, h']

/-- From any state on the way the operation drains to the wire: every step leaves fewer micro-operations or less for the engine. -/
theorem Draining.drains {s t : State} {i : Instr} {k : Nat} {sent gone frames : List Frame} (h : Draining s i k sent gone t)
    (hb : between s) (hsched : s.schedule = []) (hpol : s.policy = .eager) (hc : staticCheck i s = none)
    (hl : lastFrames s i = some frames) (hsent : sent ++ framesFrom s i k = frames) :
    ∃ n, Host.Core.run Sys2Proof.core n t = .next (drained s i frames) := by
  induction hw : 3 * (uopCount i - k) + t.portWork using Nat.strong_induction_on generalizing k sent gone t with
  | _ w ih =>
    have hi := busOperation_of_lastFrames hl
    have hts : t.schedule = [] := h.schedule_eq.trans hsched
    have htp : t.policy = .eager := h.policy_eq.trans hpol
    obtain ⟨-, huop, -, -⟩ := inProgress_of_inv h.sound.inv h.place.2
    have hk : k < uopCount i := (expansionsHaveTheirLength t.params i k).1 (Option.isSome_iff_ne_none.2 huop)
    have hnext : ∀ {t' k' sent' gone'}, step t = .next t' → Draining s i k' sent' gone' t' →
        sent' ++ framesFrom s i k' = frames → 3 * (uopCount i - k') + t'.portWork < w →
        ∃ n, Host.Core.run Sys2Proof.core n t = .next (drained s i frames) := by
      intro t' k' sent' gone' hstep h' hsent' hless
      obtain ⟨n, hn⟩ := ih _ hless h' hsent' rfl
      exact ⟨n + 1, (run_succ hstep n).trans hn⟩
    by_cases he : t.sequencerEnabled = true
    · have hstep := step_eager_exec hts htp h.place he
      by_cases hlast : k + 1 < uopCount i
      · obtain ⟨t', ht', h', hwork⟩ := h.after_exec hi he hlast hstep
        refine hnext ht' h' ?_ (by omega)
        rw [List.append_assoc, ← framesFrom_of_lt s hk, hsent]
      · have hu := waitTcf_of_lastFrames hc hl (k := k) (by omega)
        have hall : sent = frames := by
          rw [framesFrom_of_lt s hk, framesFrom_end s (by omega)] at hsent
          simpa [frameAt, hu] using hsent
        refine ⟨1, (run_succ (hstep.trans (h.exec_last hu he hb.2)) 0).trans ?_⟩
        rw [hall]
        rfl
    · have hu : t.curUop ≠ some .acquire := by
        intro hacq
        obtain ⟨a, ha, hacq⟩ := curUop_eq_some.1 hacq
        cases h.place.2.symm.trans ha
        exact absurd (isFraming_of_busOperation hi hacq) nofun
      have hg := engineEnabled_of_hold h.sound h.place.1 (by simpa using he) hu
      have hstep := step_eager_engine hts htp (by simpa using he) hg
      obtain ⟨gone', h'⟩ := h.after_engineStep hstep
      have hwork := portWork_engineStep hg
      exact hnext hstep h' hsent (by omega)

/-- Settles O52: the DECODE step begins the operation, and from there it drains. -/
theorem lastFramedOperationsDrainToTheWire : Obligations.LastFramedOperationsDrainToTheWire := by
  intro s i rest frames hw hmode hinv hs hb hsched hpol ho hd hc hl
  have hstep := step_eager_begins hsched hpol hb hd hc
  have hbegun : Draining s i 0 [] [] (goesTo i 0 s) :=
    ⟨Sound.step ⟨hw, hmode, hinv, hs⟩ hstep, ⟨hb.1, rfl⟩, rfl, by simp [goesTo], by simp [goesTo, State.outstanding],
      by simp [goesTo]⟩
  obtain ⟨n, hn⟩ := hbegun.drains hb hsched hpol hc hl (framesFrom_zero hc hl)
  exact ⟨n + 1, (run_succ hstep n).trans hn⟩

end Sys2Proof.Machine
end

section
/-! PROOFS. SETWIN: its seven CONTINUE units one after the other, and the busy port it leaves (41 R130 to R132, R135). -/

namespace Sys2Proof.Machine

open Claims (atUop token passed goesTo retires setwinFrames goesOnRunning)

/-! ### The seven units -/

/-- The seven CONTINUE units of SETWIN: column command, x0, x1, row command, y0, y1, memory-write command (41 R131). -/
def setwinUnits (p : Params) (x0 y0 x1 y1 : Half) : List (LineSel × Src) :=
  [(.cmd, .byte p.cmdColset), (.data, .half x0), (.data, .half x1), (.cmd, .byte p.cmdRowset), (.data, .half y0),
    (.data, .half y1), (.cmd, .byte p.cmdMemwrite)]

theorem uopAt_setwin (p : Params) (x0 y0 x1 y1 : Half) (k : Nat) :
    uopAt p (.setwin x0 y0 x1 y1) k = (contUnits (setwinUnits p x0 y0 x1 y1))[k]? := rfl

/-- Each unit submits its frame: the token of its line and the value of its immediate, untagged. -/
theorem map_frame_setwinUnits (s : State) (x0 y0 x1 y1 : Half) :
    (setwinUnits s.params x0 y0 x1 y1).map (fun x => (readSrc s x.2).map fun v => (⟨token s x.1, v, false⟩ : Frame)) =
      (setwinFrames s x0 y0 x1 y1).map some := rfl

/-- The n-th frame is the one the n-th unit submits. -/
theorem unit_of_setwinFrames {s : State} {x0 y0 x1 y1 : Half} {n : Nat} {f : Frame}
    (h : (setwinFrames s x0 y0 x1 y1)[n]? = some f) :
    ∃ sel src v, (setwinUnits s.params x0 y0 x1 y1)[n]? = some (sel, src) ∧ readSrc s src = some v ∧
      f = ⟨token s sel, v, false⟩ := by
  have hmap := congrArg (·[n]?) (map_frame_setwinUnits s x0 y0 x1 y1)
  simp only [List.getElem?_map, h, Option.map_some, Option.map_eq_some_iff] at hmap
  obtain ⟨⟨sel, src⟩, hunit, v, hv, rfl⟩ := hmap
  exact ⟨sel, src, v, hunit, hv, rfl⟩

/-- SETWIN has fourteen micro-operations and is three words long. -/
theorem passed_setwin (x0 y0 x1 y1 : Half) (k : Nat) (s : State) :
    passed (.setwin x0 y0 x1 y1) k s = if k + 1 = 14 then retires 3 s else goesTo (.setwin x0 y0 x1 y1) (k + 1) s := rfl

/-- Settles O15: places 2 n and 2 n + 1 are the SUBMIT and the WAIT_LE of unit n, and place 14 is past the last unit. -/
theorem setwinSubmitsItsSevenFrames : Obligations.SetwinSubmitsItsSevenFrames := by
  intro s x0 y0 x1 y1 n f hf
  obtain ⟨sel, src, v, hunit, hv, rfl⟩ := unit_of_setwinFrames hf
  have hn : n < 7 := (List.getElem?_eq_some_iff.1 hunit).1
  have hsubmit : uopAt s.params (.setwin x0 y0 x1 y1) (2 * n) = some (.submit sel src false) :=
    (uopAt_setwin ..).trans (getElem?_contUnits hunit (j := 0) (by omega))
  have hwait : uopAt s.params (.setwin x0 y0 x1 y1) (2 * n + 1) = some .waitLe :=
    (uopAt_setwin ..).trans (getElem?_contUnits hunit (by omega))
  refine ⟨fun ha room => ?_, fun ha hle => ?_⟩
  · rw [exec_submit ha hsubmit room hv, passed_setwin, if_neg (by omega)]
    rfl
  · rw [exec_waitLe ha hwait, if_pos hle, passed_setwin]
    exact congrArg _ (if_congr (by omega) rfl rfl)

/-! ### The busy port -/

/-- A restart leaves no operation in progress (10 R37). -/
theorem goesOnRunning_of_cur {s t : State} {a : Active} (h : step s = .next t) (ht : t.cur = some a) :
    goesOnRunning s = true := by
  obtain ⟨m, hm, h⟩ | ⟨hm, -⟩ := step_next h
  · rw [goesOnRunning, hm]
    cases m with
    | sequencer | engine | otherAcquire | otherRelease => rfl
    | reset | launch => cases h; cases ht
  · rw [goesOnRunning, hm]

/-- SETWIN submits nothing tagged, so at each of its places the handshake invariant asks that nothing tagged be outstanding
(41 R135). -/
theorem noneTagged_of_stance_setwin {s : State} {x0 y0 x1 y1 : Half} {o : Option Uop} (h : stance s (.setwin x0 y0 x1 y1) o) :
    noneTagged s.outstanding = true := by
  match o, h with
  | some (.submit ..), h => exact (roomy_of_stance_submit h).2
  | some .waitLe, h => exact h
  | some .waitEmpty, ⟨_, hf, _⟩ | some .waitTcf, ⟨_, hf, _⟩ => cases hf
  | none, h | some .clearTcf, h | some .acquire, h | some .release, h | some (.setLines ..), h | some .stopRun, h => exact h.2

theorem noneTagged_of_setwin {s : State} {x0 y0 x1 y1 : Half} {k : Nat} (hs : s.handshakeOk = true)
    (hc : s.cur = some ⟨.setwin x0 y0 x1 y1, k⟩) : noneTagged s.outstanding = true :=
  noneTagged_of_stance_setwin ((handshakeOk_iff_stance hc).1 hs)

/-- Past its first micro-operation an operation was in progress at the same place, or the sequencer has just performed the one
before. -/
theorem SequencerDid.cur_succ {s t : State} {i : Instr} {k : Nat} (hd : SequencerDid s t) (ht : t.cur = some ⟨i, k + 1⟩) :
    s.cur = some ⟨i, k + 1⟩ ∨
      ∃ u x, s.cur = some ⟨i, k⟩ ∧ uopAt s.params i k = some u ∧ UopDid s u x ∧ t = x.advance i k := by
  cases hd with
  | idle => exact .inl ht
  | advanced i k ha u hu x hp => cases ht; exact .inr ⟨u, x, ha.2, hu, hp, rfl⟩
  | rejected | refused | began | raised | stopped | retired => cases ht

/-- A SUBMIT leaves the port busy: its frame is in the queue. -/
theorem UopDid.quiescent_eq_false_of_submit {s x : State} {sel : LineSel} {src : Src} {last : Bool}
    (h : UopDid s (.submit sel src last) x) : x.quiescent = false := by
  cases h
  rw [← Bool.not_eq_true, quiescent_iff]
  simp

/-- A step that leaves a SETWIN past its first SUBMIT found it past that, or performed that SUBMIT. -/
theorem setwin_past_submit_or_busy {s t : State} {x0 y0 x1 y1 : Half} {k : Nat} (h : step s = .next t)
    (hc : t.cur = some ⟨.setwin x0 y0 x1 y1, k + 1⟩) :
    (∃ j, s.cur = some ⟨.setwin x0 y0 x1 y1, j + 1⟩) ∨ t.quiescent = false := by
  by_cases hm : nextMove s = some .sequencer
  · rw [step_sequencer hm] at h
    obtain hsame | ⟨u, x, hprev, hu, hp, rfl⟩ := (sequencerDid_of_next h).cur_succ hc
    · exact .inl ⟨k, by rwa [useMove_cur] at hsame⟩
    · cases k with
      | zero => cases hu; exact .inr hp.quiescent_eq_false_of_submit
      | succ k => exact .inl ⟨k, by rwa [useMove_cur] at hprev⟩
  · exact .inl ⟨k, ((stepDid_of_next h (goesOnRunning_of_cur h hc)).samePlace hm).cur ▸ hc⟩

/-- Settles O50: the first SUBMIT makes the port busy, only a tagged FINISH could quiet it (O49), and the handshake invariant
keeps tagged frames out. -/
theorem setwinLeavesThePortBusy : Obligations.SetwinLeavesThePortBusy := by
  intro s t hw hmode hinv hs hbusy
  refine ⟨fun h x0 y0 x1 y1 k hc hk => ?_, fun x0 y0 x1 y1 ha h ht => ?_⟩
  · refine ⟨?_, noneTagged_of_setwin (handshakeIsKeptByEveryStep s t hw hmode hinv hs h) hc⟩
    obtain ⟨k, rfl⟩ := Nat.exists_eq_add_of_le' hk
    obtain ⟨j, hj⟩ | hfirst := setwin_past_submit_or_busy h hc
    · obtain ⟨hport, hnone⟩ := hbusy x0 y0 x1 y1 (j + 1) hj (by omega)
      exact onlyATaggedFinishQuietsThePort s t hinv hport hnone h (goesOnRunning_of_cur h hc)
    · exact hfirst
  · obtain ⟨hport, -⟩ := hbusy x0 y0 x1 y1 13 ha.2 (by omega)
    obtain ⟨-, hnone⟩ : t.roomy := (handshakeOk_iff_roomy ht).1 (handshakeOk_exec ha hs h)
    exact ⟨(sequencerDid_of_exec ha h).quiescent_eq_false hport, hnone⟩

end Sys2Proof.Machine
end

section
/-! PROOFS. FILL and BLIT: the static checks of a run (42 R142, R143) and its steps, `count − 1` CONTINUE units and one LAST unit
(42 R140, R141, R144, R145). -/

namespace Sys2Proof.Machine

open Claims (between passed goesTo uopCount runOperation runSteps)

/-! ### The static checks -/

/-- Where its static check fails, an operation raises the fault of the check at its DECODE (60 R200, R202). -/
theorem exec_refused {i : Instr} {c : FaultCode} {s : State} (hb : between s) (hc : staticCheck i s = some c) :
    exec i s = .next (s.raise c) := by
  obtain ⟨hrun, hcur⟩ := hb
  rw [exec_decode i s hrun hcur, hc]
  rfl

theorem checkRun_zero {s : State} (ho : s.owner = .self) : checkRun 0 s = some .zeroLengthRun := by
  rw [checkRun, if_neg (not_not_intro ho)]
  rfl

/-- BLIT makes the checks of a run first (60 R202). -/
theorem checkBlit_of_checkRun {base count : Word} {c : FaultCode} {s : State} (h : checkRun count s = some c) :
    checkBlit base count s = some c := by
  rw [checkBlit, h]

theorem checkBlit_sourceRange {base count : Word} {s : State} (ho : s.owner = .self) (hz : count ≠ 0)
    (h : s.params.pmemSize < base.toNat + count.toNat) : checkBlit base count s = some .sourceRange := by
  rw [checkBlit, (checkRun_eq_none count s).2 ⟨ho, hz⟩]
  exact if_pos h

/-- Settles O11: both runs make the check of the count. -/
theorem zeroLengthRunsFault : Obligations.ZeroLengthRunsFault := by
  intro s hb ho
  have hc := checkRun_zero ho
  exact ⟨fun _ => exec_refused (c := .zeroLengthRun) hb hc,
    fun _ => exec_refused (c := .zeroLengthRun) hb (checkBlit_of_checkRun hc)⟩

/-- Settles O12: the check fails above PMEM_SIZE, and where it passes the run's last address is below PMEM_SIZE. -/
theorem blitChecksItsSourceRange : Obligations.BlitChecksItsSourceRange := by
  intro s base count hb ho hz
  refine ⟨fun hpast => ?_, fun hin => ⟨?_, fun n hn => by omega⟩⟩
  · exact exec_refused (c := .sourceRange) hb (checkBlit_sourceRange ho hz hpast)
  · exact exec_begins hb ((checkBlit_eq_none base count s).2 ⟨⟨ho, hz⟩, hin⟩)

/-! ### The steps of a run -/

/-- Below the operation's last micro-operation the next one follows. -/
theorem passed_of_lt {i : Instr} {k : Nat} (s : State) (h : k + 1 < uopCount i) : passed i k s = goesTo i (k + 1) s :=
  if_neg h.ne

/-- A pixel run makes the steps of its units, whatever its `count` pixels are. -/
theorem runSteps_of_uopAt {s : State} {i : Instr} {count : Nat} {pixel : Nat → Src} {value : Nat → Half}
    (hu : uopAt s.params i = runUop count pixel) (hi : runOperation i = true) (hn : uopCount i = 2 * (count - 1) + 4)
    (hc : count ≠ 0) (hv : ∀ n, n < count → readSrc s (pixel n) = some (.half (value n))) : runSteps i count value s := by
  have hlast : ∀ j, uopAt s.params i (2 * (count - 1) + j) = (unitL16 .data (pixel (count - 1)))[j]? := fun j => by
    rw [hu, runUop_lastUnit pixel j hc]
  refine ⟨fun n hlt ha room => ?_, fun n hlt ha hle => ?_, fun ha => ?_, fun ha room => ?_, fun ha hempty => ?_,
    fun ha hflag => ?_⟩
  · rw [exec_submit ha (by rw [hu, runUop_submit pixel hlt]) room (hv n (by omega)), passed_of_lt _ (by omega), hi]
    rfl
  · rw [exec_waitLe ha (by rw [hu, runUop_waitLe pixel hlt]), if_pos hle, passed_of_lt _ (by omega)]
  · rw [exec_clearTcf ha (hlast 0), passed_of_lt _ (by omega)]
  · rw [exec_submit ha (hlast 1) room (hv (count - 1) (by omega)), passed_of_lt _ (by omega), hi]
    rfl
  · rw [exec_waitEmpty ha (hlast 2), if_pos hempty, passed_of_lt _ (by omega)]
  · rw [exec_waitTcf ha (hlast 3), if_pos hflag, passed_of_waitTcf s (hlast 3)]

/-- Settles O16: the pixels are immediates. -/
theorem fillSubmitsItsRun : Obligations.FillSubmitsItsRun := by
  intro s color count hcount
  exact runSteps_of_uopAt (pixel := fun _ => .half color) rfl rfl (if_neg hcount)
    (fun e => hcount (BitVec.eq_of_toNat_eq e)) fun _ _ => rfl

/-- Settles O17: the pixels are elements of PMEM, all inside it. -/
theorem blitSubmitsItsRun : Obligations.BlitSubmitsItsRun := by
  intro s base count hcount hin
  refine runSteps_of_uopAt (pixel := fun n => .pmem (base.toNat + n)) rfl rfl (if_neg hcount)
    (fun e => hcount (BitVec.eq_of_toNat_eq e)) fun n hn => ?_
  simp [readSrc, readPmem, show base.toNat + n < s.params.pmemSize by omega]

end Sys2Proof.Machine
end

section
/-! PROOFS. SESSBEG, SESSEND, INITLN and HALT (43 R160 to R165): the faults of their static checks, and the step of the one
micro-operation each of them has. -/

namespace Sys2Proof.Machine

open Claims (between atUop)

/-! ### The static checks -/

theorem checkSessbeg_reentry {s : State} (ho : s.owner = .self) : checkSessbeg s = some .sessionReentry := if_pos ho

theorem checkSessend_notOpen {s : State} (ho : s.owner ≠ .self) : checkSessend s = some .sessionNotOpen := if_neg ho

theorem checkInitln_locked (valid : Bool) (tc td : Half) {s : State} (hl : s.linesLocked = true) :
    checkInitln valid tc td s = some .configLocked := if_pos hl

theorem checkInitln_badTokens {tc td : Half} {s : State} (hl : s.linesLocked = false)
    (ht : tc = td ∨ tc = s.params.sentinel ∨ td = s.params.sentinel) : checkInitln true tc td s = some .badTokens := by
  rw [checkInitln, if_neg (by simp [hl]), if_pos ⟨rfl, ht⟩]

theorem checkHalt_inSession {s : State} (ho : s.owner = .self) : checkHalt s = some .haltInSession := if_pos ho

/-! ### The micro-operations -/

/-- ACQUIRE, where the bus is free. -/
theorem perform_acquire {s : State} (ho : s.owner = .none) :
    perform .acquire s = if s.quiescent then .done s.openSession else .raised .portNotIdle := by
  rw [perform, if_neg (by simp [holds_acquire, ho])]
  rfl

theorem perform_release_busy {s : State} (hq : ¬(s.txq = [] ∧ s.shifter = none ∧ s.cs = false)) :
    perform .release s = .raised .endWhileBusy := by
  rw [← quiescent_iff, Bool.not_eq_true] at hq
  simp [perform, State.holds, doRelease, hq]

theorem perform_release_quiet {s : State} {saved : BusCfg} (hq : s.quiescent = true) (hs : s.savedCfg = some saved) :
    perform .release s = .done (s.closeSession saved) := by
  simp [perform, State.holds, doRelease, hq, hs]

/-- STOP neither goes on nor retires. -/
theorem exec_stop {i : Instr} {k : Nat} {s : State} (ha : atUop i k s) (hu : uopAt s.params i k = some .stopRun) :
    exec i s = .next s.stop := by
  rw [exec_exec i k s ha.1 ha.2, execStep_eq_outcome hu]
  rfl

/-! ### The four operations -/

/-- Settles O18: the two outcomes of the check, then the hold, the fault and the writes of ACQUIRE. -/
theorem sessbegOpensTheSession : Obligations.SessbegOpensTheSession := by
  intro s
  refine ⟨fun hb ho => ?_, fun hb ho => ?_, fun ha ho => ?_, fun ha ho hbusy => ?_, fun ha ho hq hs hcs => ?_⟩
  · exact exec_refused (c := .sessionReentry) hb (checkSessbeg_reentry ho)
  · exact exec_begins hb ((checkSessbeg_eq_none s).2 ho)
  · exact exec_of_held ha rfl (perform_of_holds ((holds_acquire s).2 ho))
  · rw [← quiescent_iff] at hbusy
    exact exec_of_raised (c := .portNotIdle) ha rfl (by rw [perform_acquire ho, if_neg hbusy])
  · have hquiet := (quiescent_iff s).2 ⟨hq, hs, hcs⟩
    exact exec_of_done (x := s.openSession) ha rfl (by rw [perform_acquire ho, if_pos hquiet])

/-- Settles O19: the two outcomes of the check, then the fault and the writes of RELEASE. -/
theorem sessendClosesTheSession : Obligations.SessendClosesTheSession := by
  intro s
  refine ⟨fun hb ho => ?_, fun hb ho => ?_, fun ha hbusy => ?_, fun saved ha hq hs hcs hsaved => ?_⟩
  · exact exec_refused (c := .sessionNotOpen) hb (checkSessend_notOpen ho)
  · exact exec_begins hb ((checkSessend_eq_none s).2 ho)
  · exact exec_of_raised (c := .endWhileBusy) ha rfl (perform_release_busy hbusy)
  · have hquiet := (quiescent_iff s).2 ⟨hq, hs, hcs⟩
    exact exec_of_done (x := s.closeSession saved) ha rfl (perform_release_quiet hquiet hsaved)

/-- Settles O20: the three outcomes of the check, with the tokens unread for VALID = 0, then SETLINES for both values. -/
theorem initlnInstallsTheLines : Obligations.InitlnInstallsTheLines := by
  intro s tc td
  refine ⟨fun valid hb hl => ?_, fun hb hl hbad => ?_, fun hb hl hgood => ?_, fun hb hl => ?_, fun ha => ?_, fun ha => ?_⟩
  · exact exec_refused (c := .configLocked) hb (checkInitln_locked valid tc td hl)
  · exact exec_refused (c := .badTokens) hb (checkInitln_badTokens hl hbad)
  · exact exec_begins hb ((checkInitln_eq_none true tc td s).2 ⟨hl, fun _ => by simpa only [not_or] using hgood⟩)
  · exact exec_begins hb ((checkInitln_eq_none false tc td s).2 ⟨hl, nofun⟩)
  · exact exec_of_done (x := s.installLines tc td) ha rfl rfl
  · exact exec_of_done (x := s.lockLines) ha rfl rfl

/-- Settles O21: the two outcomes of the check, then STOP. -/
theorem haltStopsTheSequencer : Obligations.HaltStopsTheSequencer := by
  intro s
  refine ⟨fun hb ho => ?_, fun hb ho => ?_, fun ha => ?_⟩
  · exact exec_refused (c := .haltInSession) hb (checkHalt_inSession ho)
  · exact exec_begins hb ((checkHalt_eq_none s).2 ho)
  · exact exec_stop ha rfl

end Sys2Proof.Machine
end

section
/-! PROOFS. The frame of the operations that submit no frame (43 R160 to R165; 60 R200). -/

namespace Sys2Proof.Machine

open Claims (busOperation keepsEngineAndMemory keepsFault)

/-! ### Outside the control registers -/

/-- What SESSBEG, SESSEND, INITLN and HALT can write outside the control registers: nothing, or what the one micro-operation of
the operation writes. -/
inductive SystemDid (s : State) : Instr → State → Prop
  | nothing (i : Instr) : SystemDid s i s
  | opened : SystemDid s .sessbeg s.openSession
  | closed (saved : BusCfg) : SystemDid s .sessend (s.closeSession saved)
  | installed (tc td : Half) : SystemDid s (.initln true tc td) (s.installLines tc td)
  | locked (tc td : Half) : SystemDid s (.initln false tc td) s.lockLines

theorem systemDid_of_uopDid {i : Instr} {k : Nat} {u : Uop} {s x : State} (hi : busOperation i = false)
    (hu : uopAt s.params i k = some u) (hd : UopDid s u x) : SystemDid s i x := by
  cases hd with
  | submit | waitLe | clearTcf | waitEmpty | waitTcf =>
    rw [busOperation_of_isFraming hu rfl] at hi
    cases hi
  | acquire => rw [sessbeg_of_acquire hu]; exact .opened
  | release saved => rw [sessend_of_release hu]; exact .closed saved
  | installLines tc td => rw [initln_of_setLines hu]; exact .installed tc td
  | lockLines tc td => rw [initln_of_setLines hu]; exact .locked tc td

theorem systemDid_of_exec {i : Instr} {s t : State} (hi : busOperation i = false) (h : exec i s = .next t) :
    ∃ x, SystemDid s i x ∧ SameButControl x t := by
  obtain ⟨x, rfl | ⟨k, u, -, hu, hd⟩, ht⟩ := exec_performs h
  · exact ⟨x, .nothing i, ht⟩
  · exact ⟨x, systemDid_of_uopDid hi hu hd, ht⟩

section
variable {i : Instr} {s x : State} (h : SystemDid s i x)
include h

theorem SystemDid.keepsEngineAndMemory : keepsEngineAndMemory s x := by
  cases h <;> exact ⟨rfl, fun _ => rfl, fun _ => rfl, rfl, rfl, rfl, rfl, rfl, rfl, rfl, rfl⟩

theorem SystemDid.queue_eq : x.txq = s.txq ∧ x.fromRun = s.fromRun ∧ x.tcf = s.tcf := by
  cases h <;> exact ⟨rfl, rfl, rfl⟩

/-- The bus and its configuration are SESSBEG's and SESSEND's (43 R160, R161). -/
theorem SystemDid.bus_eq (hb : i ≠ .sessbeg) (he : i ≠ .sessend) : x.owner = s.owner ∧ x.busCfg = s.busCfg := by
  cases h with
  | opened => exact absurd rfl hb
  | closed => exact absurd rfl he
  | nothing | installed | locked => exact ⟨rfl, rfl⟩

/-- The saved configuration is SESSBEG's (43 R160). -/
theorem SystemDid.savedCfg_eq (hb : i ≠ .sessbeg) : x.savedCfg = s.savedCfg := by
  cases h with
  | opened => exact absurd rfl hb
  | nothing | closed | installed | locked => rfl

/-- The tokens and the line flags are INITLN's (43 R163). -/
theorem SystemDid.lines_eq (hi : i = .sessbeg ∨ i = .sessend ∨ i = .halt) :
    x.tokCmd = s.tokCmd ∧ x.tokData = s.tokData ∧ x.linesLocked = s.linesLocked ∧ x.linesValid = s.linesValid := by
  cases h with
  | installed | locked => simp at hi
  | nothing | opened | closed => exact ⟨rfl, rfl, rfl, rfl⟩

end

/-! ### The fault registers and the mode -/

/-- An operation writes the fault registers and the mode at a fault entry only, or it is HALT and stops. -/
theorem keepsFault_or_stop_of_exec {i : Instr} {s t : State} (h : exec i s = .next t) :
    keepsFault s t ∨ (i = .halt ∧ s.mode = .run ∧ t = s.stop) := by
  obtain ⟨-, rfl⟩ | ⟨hrun, -, ⟨-, rfl⟩ | ⟨c, -, rfl⟩⟩ | ⟨k, hrun, -, h⟩ := exec_next h
  · exact .inl (.inl ⟨rfl, rfl, rfl⟩)
  · exact .inl (.inl ⟨rfl, rfl, rfl⟩)
  · exact .inl (keepsFault_raise hrun c)
  · obtain ⟨u, hu, ⟨x, hp, hx⟩ | ⟨rfl, rfl⟩ | ⟨-, rfl⟩ | ⟨c, -, rfl⟩⟩ := execStep_next h
    · have hkeep := (uopDid_of_perform hp).fault_eq
      obtain ⟨-, rfl⟩ | ⟨-, rfl⟩ := hx <;> exact .inl (.inl hkeep)
    · exact .inr ⟨halt_of_stopRun hu, hrun, rfl⟩
    · exact .inl (.inl ⟨rfl, rfl, rfl⟩)
    · exact .inl (keepsFault_raise hrun c)

/-! ### The frame -/

/-- Settles O28: by what the one micro-operation writes, and by the fault entry or HALT's STOP. -/
theorem systemOperationFrame : Obligations.SystemOperationFrame := by
  intro s t i hi h
  obtain ⟨x, hx, ht⟩ := systemDid_of_exec hi h
  obtain ⟨hq, hrun, htcf⟩ := hx.queue_eq
  have hfault := keepsFault_or_stop_of_exec h
  refine ⟨ht.keepsEngineAndMemory hx.keepsEngineAndMemory, ht.txq.trans hq, ht.fromRun.trans hrun, ht.tcf.trans htcf,
    fun hne => hfault.resolve_right fun hstop => hne hstop.1, fun _ => ?_, ?_⟩
  · obtain hkeep | ⟨-, hmode, rfl⟩ := hfault
    · exact .inl hkeep
    · exact .inr ⟨hmode, rfl, rfl, rfl⟩
  · rw [ht.owner, ht.busCfg, ht.savedCfg, ht.tokCmd, ht.tokData, ht.linesLocked, ht.linesValid]
    exact ⟨hx.bus_eq, hx.savedCfg_eq, hx.lines_eq⟩

end Sys2Proof.Machine
end

section
/-! PROOFS. The other consumers of the bus (43 R166, R167), and a halted block, which is final (43 R165; 70 R233). -/

namespace Sys2Proof.Machine

/-! ### The other consumers -/

theorem step_otherAcquire {s : State} (hm : nextMove s = some .otherAcquire) : step s = .next (otherAcquire (useMove s)) := by
  rw [step, oneStep, hm]
  rfl

theorem step_otherRelease {s : State} {cfg : BusCfg} {tcf : Bool} (hm : nextMove s = some (.otherRelease cfg tcf)) :
    step s = .next (otherRelease cfg tcf (useMove s)) := by
  rw [step, oneStep, hm]
  rfl

/-- Settles O34: each move tests the owner, which the schedule's bookkeeping does not touch. -/
theorem otherConsumersTakeAndGive : Obligations.OtherConsumersTakeAndGive := by
  intro s
  refine ⟨fun hm => ?_, fun cfg tcf hm => ?_⟩
  · rw [step_otherAcquire hm, otherAcquire, useMove_owner]
    rfl
  · rw [step_otherRelease hm, otherRelease, useMove_owner]
    rfl

/-! ### A halted block -/

theorem final_iff (s : State) :
    s.final = true ↔ s.mode = .halted ∧ (s.txq = [] ∧ s.shifter = none ∧ s.cs = false) ∧ s.fault = 0 := by
  rw [State.final, Bool.and_eq_true, Bool.and_eq_true, decide_eq_true_iff, decide_eq_true_iff, quiescent_iff, and_assoc]

/-- Only a running block has an operation in progress, so a halted one has no session (43 R165). -/
theorem owner_of_halted {s : State} (h : s.Inv) (hm : s.mode = .halted) : s.owner ≠ .self := by
  have hcur : s.cur = none := by
    by_contra hc
    obtain ⟨a, ha⟩ := Option.ne_none_iff_exists'.1 hc
    obtain ⟨hrun, -⟩ := inProgress_of_inv h ha
    exact absurd (hm.symm.trans hrun) nofun
  exact ((progressOk_iff s).1 ((inv_iff s).1 h).2).1 hcur hm

/-- A halted block has no session, so its port is quiescent; it has not faulted, so its fault register is clear. -/
theorem final_of_halted {s : State} (h : s.Inv) (hm : s.mode = .halted) : s.final = true := by
  obtain ⟨hreg, -⟩ := (inv_iff s).1 h
  have hquiet := ((sessionOk_iff s).1 hreg.session).2 (owner_of_halted h hm)
  obtain ⟨hfault, -⟩ := ((faultOk_iff s).1 hreg.fault).2 (by simp [hm])
  exact (final_iff s).2 ⟨hm, hquiet, hfault⟩

/-- Settles O48: a step keeps the invariant and the mode, so it ends in a final state again; and it finishes no frame, because
the shifter of a final state is empty. -/
theorem haltedIsFinal : Obligations.HaltedIsFinal := by
  intro s hw hinv hm
  have hfinal := final_of_halted hinv hm
  refine ⟨hfinal, fun t h hr => ⟨?_, ?_⟩⟩
  · obtain ⟨hmode, -⟩ := stoppedBlockStaysStopped s t h (by simp [hm]) hr
    exact final_of_halted (invIsKeptByEveryStep s t hw hinv h) (hmode.trans hm)
  · obtain ⟨-, ⟨-, hshifter, -⟩, -⟩ := (final_iff s).1 hfinal
    obtain hsame | ⟨f, -, hf, -⟩ := wireIsAppendOnly s t h hr
    · exact hsame
    · exact absurd (hshifter.symm.trans hf) nofun

end Sys2Proof.Machine
end

section
/-! PROOFS. The fault entry (60 R200, R201): only the sequencer enters FAULTED, by `State.raise`. -/

namespace Sys2Proof.Machine

open Claims (goesOnRunning faulted)

theorem raise_eq_faulted (c : FaultCode) (s : State) : s.raise c = faulted c.code.toNat s := by
  rw [faulted, BitVec.ofNat_toNat, BitVec.setWidth_eq]
  rfl

/-- The sequencer enters FAULTED by raising a fault: every other step of it keeps the mode or sets HALTED. -/
theorem SequencerDid.raise_of_faulted {s t : State} (hd : SequencerDid s t) (hs : s.mode ≠ .faulted)
    (ht : t.mode = .faulted) : ∃ c, t = s.raise c := by
  cases hd with
  | rejected _ e => exact ⟨decodeFault e, rfl⟩
  | refused _ _ c | raised _ _ _ _ _ c => exact ⟨c, rfl⟩
  | idle | began => exact absurd ht hs
  | stopped => cases ht
  | advanced _ _ _ _ _ _ hp | retired _ _ _ _ _ _ hp =>
    obtain ⟨hmode, -⟩ := hp.control
    exact absurd (hmode.symm.trans ht) hs

/-- A reset and a launch leave the block running (10 R37). -/
theorem goesOnRunning_of_mode {s t : State} (h : step s = .next t) (ht : t.mode ≠ .run) : goesOnRunning s = true := by
  obtain ⟨m, hm, h⟩ | ⟨hm, -⟩ := step_next h
  · rw [goesOnRunning, hm]
    cases m with
    | sequencer | engine | otherAcquire | otherRelease => rfl
    | reset | launch => cases h; exact absurd rfl ht
  · rw [goesOnRunning, hm]

/-- Settles O29: the other agents keep the mode, a restart sets RUN, and the sequencer enters FAULTED by `State.raise` alone. -/
theorem faultEntryIsTheSequencers : Obligations.FaultEntryIsTheSequencers := by
  intro s t h hs ht
  rw [← useMove_mode s] at hs
  cases stepDid_of_next h (goesOnRunning_of_mode h (by simp [ht])) with
  | nobody => exact absurd ht (by simpa using hs)
  | sequencer hm _ hd =>
    obtain ⟨c, rfl⟩ := hd.raise_of_faulted hs ht
    obtain ⟨hlo, hhi⟩ := code_toNat_between c
    exact ⟨hm, c.code.toNat, hlo, hhi, raise_eq_faulted c (useMove s)⟩
  | engine =>
    obtain ⟨hmode, -⟩ := engineStep_control (useMove s)
    exact absurd (hmode.symm.trans ht) hs
  | otherAcquire =>
    obtain ⟨-, e⟩ | ⟨-, e⟩ := otherAcquire_cases (useMove s) <;> rw [e] at ht <;> exact absurd ht hs
  | otherRelease cfg tcf =>
    obtain ⟨-, e⟩ | ⟨-, e⟩ := otherRelease_cases cfg tcf (useMove s) <;> rw [e] at ht <;> exact absurd ht hs

end Sys2Proof.Machine
end
